-- ==== Sys2Proof/Word.lean ====
section
/-! DEFINITION. The words of the Kappasha core and the 5×5 arrangement its grids and tables share
(00_scope.md R7, R10, R71). -/

namespace Sys2Proof

/-- A lane: "a 64-bit word; the atomic unit of the state grid" (00_scope.md R7, glossary). -/
abbrev Lane := BitVec 64

/-- The 64-bit write datum `WD`, read datum `RD` and control registers (30_encoding.md R70, 10_state.md R36). -/
abbrev Datum := BitVec 64

/-- The 32-bit command word `CW` (30_encoding.md R70, R71). -/
abbrev CommandWord := BitVec 32

/-- One byte of `BUF`, `DIG` or of the byte view of the grid (20_memory.md R50). -/
abbrev Byte := BitVec 8

/-- A shift or rotation amount: 6 bits, in `[0,64)` (10_state.md R22, R23). -/
abbrev Shift := BitVec 6

/-- A 5×5 arrangement, written `v[x][y]` with `x` the column index and `y` the row index
(00_scope.md R7 `NX`, `NY`, R10). -/
abbrev Lanes (α : Type) := Vector (Vector α 5) 5

/-- The lane grid `A` and the key lane grid `K` (10_state.md R20, R21). -/
abbrev Grid := Lanes Lane

/-- One round's row of the shift table, and the rotation-offset table (10_state.md R22, R23). -/
abbrev ShiftRow := Lanes Shift

/-- The arrangement whose every entry is `v`. -/
abbrev Lanes.fill {α : Type} (v : α) : Lanes α := Vector.replicate 5 (Vector.replicate 5 v)

end Sys2Proof
end

