-- ==== Sys2Proof/Config.lean ====
section
/-! DEFINITION. The implementation parameters of 00_scope.md R8: what one build of the engine fixes, which no
command and no reset changes. Their reference values stand in Machine/Constants.lean. -/

namespace Sys2Proof

/-- The order in which lanes map to the bytes of a block (00_scope.md R13). -/
inductive LaneOrder where
  /-- All five lanes of column `x = 0` first: `lanepos(i) = (i div 5, i mod 5)`. -/
  | xOuter
  /-- All five lanes of row `y = 0` first: `lanepos(i) = (i mod 5, i div 5)`. -/
  | yOuter
deriving DecidableEq, Repr

/-- The implementation parameters (00_scope.md R8). `MAX_ROUNDS` is the number of rows of `RC`, so it is not a
field of its own: see `Params.maxRounds`. -/
structure Params where
  /-- `ROT[x][y]`, the rotation offsets, a ROM (10_state.md R23). -/
  rot : ShiftRow
  /-- `RC[r]`, the round constants, a ROM of `MAX_ROUNDS` rows (10_state.md R24). -/
  rc : List Lane
  /-- `LANE_ORDER` (00_scope.md R13). -/
  laneOrder : LaneOrder
  /-- `MAX_OUT_BITS`, the capacity of `DIG` in bits. -/
  maxOutBits : Nat
  /-- `RED_MAX_BITS`, the width of the reducer, `QUOT` and `RCV`. -/
  redMaxBits : Nat
  /-- `PI_NUM`, numerator of π as a rational (43_reducer.md R160). -/
  piNum : Nat
  /-- `PI_DEN`, denominator of π as a rational (43_reducer.md R160). -/
  piDen : Nat
deriving DecidableEq, Repr

/-- `MAX_ROUNDS`: "number of rows of `RC` and `KSH`; largest legal `ROUNDS`" (00_scope.md R8). -/
def Params.maxRounds (b : Params) : Nat := b.rc.length

/-- `MAX_OUT_BYTES = MAX_OUT_BITS/8` (00_scope.md R8, derived sizes). -/
def Params.maxOutBytes (b : Params) : Nat := b.maxOutBits / 8

/-- `DIG_WORDS = MAX_OUT_BITS/64` (00_scope.md R8, derived sizes). -/
def Params.digWords (b : Params) : Nat := b.maxOutBits / 64

/-- `RED_LIMBS = RED_MAX_BITS/64` (00_scope.md R8, derived sizes). -/
def Params.redLimbs (b : Params) : Nat := b.redMaxBits / 64

/-- The bounds the spec puts on the parameters. `MAX_OUT_BITS` and `RED_MAX_BITS` are 00_scope.md R8's own
words. DEDUCED (log 5): `MAX_ROUNDS` fits the 8-bit field of `LIMITS` (10_state.md R35); `PI_DEN < PI_NUM`
(43_reducer.md R162) and `PI_NUM` fits the 62 bits of `FLATF` (10_state.md R29). -/
abbrev Params.Legal (b : Params) : Prop :=
  b.maxRounds < 256 ∧
  b.maxOutBits % 64 = 0 ∧ b.maxOutBits ≤ 16384 ∧
  b.redMaxBits % 64 = 0 ∧ b.redMaxBits ≤ b.maxOutBits ∧
  0 < b.piDen ∧ b.piDen < b.piNum ∧ b.piNum ≤ 2 ^ 62

end Sys2Proof
end

