-- ==== Sys2Proof/Machine/Constants.lean ====
section
/-! DEFINITION. The constants the document fixes (00_scope.md R7) and the reference values of the implementation
parameters (R8). -/

namespace Sys2Proof.Machine

/-- `STATE_BITS = NX*NY*W` (00_scope.md R7). -/
def stateBits : Nat := 1600
/-- `PAD_FIRST` (00_scope.md R7). -/
def padFirst : Byte := 0x06
/-- `PAD_LAST` (00_scope.md R7). -/
def padLast : Byte := 0x80
/-- `MOD`, the reducer modulus (00_scope.md R7). -/
def reducerMod : Nat := 369
/-- `EPS_DEN`: the zero-forcing distance is `1/EPS_DEN` (00_scope.md R7). -/
def epsDen : Nat := 10 ^ 10
/-- `BUF_BYTES = STATE_BITS/8` (00_scope.md R8, derived sizes). -/
def bufBytes : Nat := 200
/-- `BUF_WORDS` (00_scope.md R8, derived sizes). -/
def bufWords : Nat := 25

/-- The reference `ROT` table, column `x` by column (10_state.md R23; log 2). -/
def referenceRot : ShiftRow :=
  #v[#v[0, 36, 3, 41, 18],
     #v[1, 44, 10, 45, 2],
     #v[62, 6, 43, 15, 61],
     #v[28, 55, 25, 21, 56],
     #v[27, 20, 39, 8, 14]]

/-- The reference table of 10_state.md R24 as it is printed: line `r` holds `RC[r]`, `RC[r+8]` and `RC[r+16]`. -/
def referenceRcTable : List (Lane × Lane × Lane) :=
  [(0x0000000000000001, 0x000000000000008A, 0x8000000000008002),
   (0x0000000000008082, 0x0000000000000088, 0x8000000000000080),
   (0x800000000000808A, 0x0000000080008009, 0x000000000000800A),
   (0x8000000080008000, 0x000000008000000A, 0x800000008000000A),
   (0x000000000000808B, 0x000000008000808B, 0x8000000080008081),
   (0x0000000080000001, 0x800000000000008B, 0x8000000000008080),
   (0x8000000080008081, 0x8000000000008089, 0x0000000080000001),
   (0x8000000000008009, 0x8000000000008003, 0x8000000080008008)]

/-- The reference `RC` list, the three columns of the printed table one after the other (10_state.md R24; log 2). -/
def referenceRc : List Lane :=
  referenceRcTable.map (fun line => line.1) ++ referenceRcTable.map (fun line => line.2.1) ++
    referenceRcTable.map fun line => line.2.2

/-- The build with the reference values of 00_scope.md R8 (log 2 to 5). -/
def referenceBuild : Params where
  rot := referenceRot
  rc := referenceRc
  laneOrder := .xOuter
  maxOutBits := 2048
  redMaxBits := 512
  piNum := 3141592653589793238
  piDen := 10 ^ 18

end Sys2Proof.Machine
end

