-- ==== Sys2Proof/Machine/State.lean ====
section
/-! DEFINITION. The engine's state as plain data (10_state.md R20 to R42), the answer it gives, the host actions still
to come, and the state after reset (R40, 70_reset_and_hazards.md R210). -/

namespace Sys2Proof.Machine

/-- A byte space (`BUF`, `DIG`): (address, byte) pairs, addresses strictly rising, no byte listed that equals what an
unlisted address reads as (log 10). -/
abbrev Memory := List Host.Cell

/-- The answer to one transaction: status `ST` and read datum `RD` (30_encoding.md R70). -/
structure Answer where
  st : BitVec 8
  rd : Datum
deriving DecidableEq, Repr

/-- What the host can do (00_scope.md R15). -/
inductive HostAction where
  /-- assert reset, between commands (70_reset_and_hazards.md R211) -/
  | reset
  /-- issue a transaction (30_encoding.md R70) -/
  | issue (cw : CommandWord) (wd : Datum)
deriving DecidableEq, Repr

/-- The seven faults of 60_exceptions.md R181. A fault is the answer of the command that raises it, and the engine
goes on: raising one is a next state (`raise`), not a stop. -/
inductive CommandFault where
  /-- the word is illegal (R182) -/
  | illegalCommand
  /-- `INIT` only; `check` (1 to 6) is the first check of 40_state_access.md R91 that failed (R183) -/
  | configurationError (check : Nat)
  /-- a computing command with `READY = 0` (R184) -/
  | notReady
  /-- `x > 4` or `y > 4` (R185) -/
  | laneIndexError
  /-- `IDX` beyond its space, or `WD` beyond the width of what it writes (R186) -/
  | indexRangeError
  /-- `RIDX >= ROUNDS` in a command that consumes it (R187) -/
  | roundIndexError
  /-- `OUT_BITS > RED_MAX_BITS` in `RED` or `REC` (R188) -/
  | precisionError
deriving DecidableEq, Repr

/-- The whole state of the engine, with the build it is one of and the host's actions still to come. -/
structure State where
  /-- the implementation parameters (00_scope.md R8): configuration, not state (10_state.md R41); no step changes it (log 1) -/
  build : Params
  /-- `A[x][y]`, the lane grid (10_state.md R20) -/
  a : Grid
  /-- `K[x][y]`, the key lane grid (R21) -/
  k : Grid
  /-- `KSH[r][x][y]`, the keyed rotation control, one row for each round `r < MAX_ROUNDS` (R22) -/
  ksh : List ShiftRow
  /-- `BUF[0..199]`, the block buffer (R25) -/
  buf : Memory
  /-- `DIG[0..MAX_OUT_BYTES-1]`, the digest register (R26) -/
  dig : Memory
  /-- `QUOT`, an integer of `RED_MAX_BITS` bits (R27, 20_memory.md R55; log 11) -/
  quot : Nat
  /-- `RCV`, an integer of `RED_MAX_BITS` bits (R28, 20_memory.md R55; log 11) -/
  rcv : Nat
  /-- `FLATI` (R29) -/
  flatI : BitVec 9
  /-- `FLATF` (R29) -/
  flatF : BitVec 62
  /-- `FZ` (R29, R42) -/
  fz : Bool
  /-- `ROUNDS` (R30) -/
  rounds : Datum
  /-- `RATE_BITS` (R30) -/
  rateBits : Datum
  /-- `CAP_BITS` (R30) -/
  capBits : Datum
  /-- `OUT_BITS` (R30) -/
  outBits : Datum
  /-- `RIDX`, the round index (R31) -/
  ridx : Datum
  /-- `READY` (R32) -/
  ready : Bool
  /-- `LASTERR` (R33) -/
  lastErr : BitVec 8
  /-- `ERRINFO` (R33) -/
  errInfo : BitVec 8
  /-- the answer to the transaction of the step just taken (30_encoding.md R70); `none` when that step answered none (log 8) -/
  answer : Option Answer
  /-- the host's actions still to come (00_scope.md R15; log 6) -/
  host : List HostAction
deriving DecidableEq, Repr

/-- Reasons for the machine to stop with a fault. There are none, and the type is closed: "The engine never stops by
itself, never hangs and never refuses to answer" (00_scope.md R15). The spec's own faults are `CommandFault`. -/
inductive Fault where
deriving DecidableEq, Repr

/-- Reasons to give an instruction no meaning. -/
inductive Refusal where
  /-- `exec` would raise it for an instruction that has no meaning yet; no arm does. Safe: it only stops. -/
  | notModelled (mnemonic : String)
deriving DecidableEq, Repr

/-- The outcome of a command or of a step. -/
abbrev Result := Host.Outcome State Fault Refusal

/-- The reset values of 10_state.md R40, in a given build: ROMs and the other implementation parameters are not
affected by a reset (70_reset_and_hazards.md R210). -/
def State.resetOf (b : Params) : State where
  build := b
  a := Lanes.fill 0
  k := Lanes.fill 0
  ksh := List.replicate b.maxRounds (Lanes.fill 0)
  buf := []
  dig := []
  quot := 0
  rcv := 0
  flatI := 0
  flatF := 0
  fz := false
  rounds := 24
  rateBits := 1088
  capBits := 512
  outBits := 256
  ridx := 0
  ready := false
  lastErr := 0
  errInfo := 0
  answer := none
  host := []

/-- The machine right after reset: the reference build (00_scope.md R8), no transaction answered and the host having
nothing to issue (log 1, 6, 8). -/
def State.reset : State := State.resetOf referenceBuild

end Sys2Proof.Machine
end

