-- ==== Sys2Proof/Machine/Ops.lean ====
section
/-! DEFINITION. The named operations the command meanings are made of: byte spaces, lanes, answering a command, taking
a fault, and the checks that take one. -/

namespace Sys2Proof.Machine

/-! ### Byte spaces (20_memory.md R50, R51) -/

/-- What an unlisted byte of `BUF` or `DIG` reads as: the reset value of both (10_state.md R40; log 10). -/
def Memory.unlisted : Byte := 0

/-- The canonical form: addresses strictly rising, and no byte listed that equals `Memory.unlisted`. -/
abbrev Memory.wf (m : Memory) : Prop :=
  m.Pairwise (fun c d => c.1 < d.1) ∧ ∀ c ∈ m, c.2 ≠ Memory.unlisted

/-- Every listed address is below `size`. -/
abbrev Memory.within (m : Memory) (size : Nat) : Prop := ∀ c ∈ m, c.1 < size

/-- The byte at address `a`. -/
def Memory.read : Memory → Nat → Byte
  | [], _ => Memory.unlisted
  | (k, b) :: m, a => if a = k then b else Memory.read m a

/-- The space with byte `v` at address `a`. -/
def Memory.write : Memory → Nat → Byte → Memory
  | [], a, v => if v = Memory.unlisted then [] else [(a, v)]
  | (k, b) :: m, a, v =>
    if a < k then
      if v = Memory.unlisted then (k, b) :: m else (a, v) :: (k, b) :: m
    else if a = k then
      if v = Memory.unlisted then m else (a, v) :: m
    else (k, b) :: Memory.write m a v

/-- The space with the bytes `bs` at `a`, `a+1`, … -/
def Memory.store : Memory → Nat → List Byte → Memory
  | m, _, [] => m
  | m, a, b :: bs => Memory.store (Memory.write m a b) (a + 1) bs

/-- The bytes at `a .. a+n-1`, in order. -/
def Memory.bytes (m : Memory) (a n : Nat) : List Byte := (List.range n).map fun j => m.read (a + j)

/-- `MemRead(S, a, n)`: "assembled little-endian: `sum over j<n of S[a+j] * 2^(8j)`" (00_scope.md R11). -/
def Memory.readLE (m : Memory) (a n : Nat) : Nat :=
  ((List.range n).map fun j => (m.read (a + j)).toNat * 2 ^ (8 * j)).sum

/-- The eight bytes `v[8j+7:8j]` of a datum, `j` from 0 (00_scope.md R11). -/
def datumBytes (v : Datum) : List Byte := (List.range 8).map fun j => v.extractLsb' (8 * j) 8

/-- `MemRead(S, 8i, 8)` as a datum: word `i` of a byte space (20_memory.md R51, R53). -/
def Memory.readWord (m : Memory) (i : Nat) : Datum := BitVec.ofNat 64 (m.readLE (8 * i) 8)

/-- `MemWrite(S, 8i, 8, v)`: word `i` of a byte space becomes `v` (20_memory.md R51, R53). -/
def Memory.writeWord (m : Memory) (i : Nat) (v : Datum) : Memory := m.store (8 * i) (datumBytes v)

/-! ### Lanes (00_scope.md R10 to R12) -/

/-- The 5×5 arrangement with `f x y` at `(x,y)`: the form `parallel … A <- A'` of every step, which reads a whole
grid and writes a whole grid (00_scope.md R11, 41_permutation.md R119). -/
def tabulate {α : Type} (f : Fin 5 → Fin 5 → α) : Lanes α := Vector.ofFn fun x => Vector.ofFn fun y => f x y

/-- The arrangement with entry `(x,y)` replaced. -/
def setLane {α : Type} (x y : Fin 5) (v : α) (g : Lanes α) : Lanes α := g.set x (g[x].set y v)

/-- `rotl64(v, n)`: bit `i` of `v` becomes bit `(i+n) mod 64` (00_scope.md R12). -/
def rotl64 (v : Lane) (n : Nat) : Lane := v.rotateLeft n

/-- `shr64(v, n) = v div 2^n`, zero bits enter at bit 63 (00_scope.md R12; decision D38). -/
def shr64 (v : Lane) (n : Nat) : Lane := v >>> n

/-- `not64(v)` (00_scope.md R12). -/
def not64 (v : Lane) : Lane := ~~~v

/-! ### Answers and faults -/

/-- The status codes of 60_exceptions.md R181. -/
def CommandFault.code (f : CommandFault) : BitVec 8 :=
  match f with
  | .illegalCommand => 0x01
  | .configurationError _ => 0x02
  | .notReady => 0x03
  | .laneIndexError => 0x04
  | .indexRangeError => 0x05
  | .roundIndexError => 0x06
  | .precisionError => 0x07

/-- What a fault leaves in `ERRINFO`: the failing check's number for a ConfigurationError, 0 for every other
(60_exceptions.md R191). -/
def CommandFault.info (f : CommandFault) : BitVec 8 :=
  match f with
  | .configurationError check => BitVec.ofNat 8 check
  | .illegalCommand | .notReady | .laneIndexError | .indexRangeError | .roundIndexError | .precisionError => 0

/-- What a fault leaves in `READY`: a failing `INIT` clears it, every other fault leaves it (60_exceptions.md R191;
log 9 for an illegal word with `INIT`'s opcode). -/
def CommandFault.readyAfter (f : CommandFault) (ready : Bool) : Bool :=
  match f with
  | .configurationError _ => false
  | .illegalCommand | .notReady | .laneIndexError | .indexRangeError | .roundIndexError | .precisionError => ready

/-- Fault entry, the one way every command takes a fault (60_exceptions.md R191): the answer carries the code and
`RD = 0`, `LASTERR` and `ERRINFO` record it, and nothing else changes but `READY` for a failing `INIT`. There is no
return from a fault: "nothing was entered" (R193). -/
def raise (f : CommandFault) (s : State) : State :=
  { s with
    answer := some { st := f.code, rd := 0 }
    lastErr := f.code
    errInfo := f.info
    ready := f.readyAfter s.ready }

/-- The command ends in the fault `f`. -/
def fail (f : CommandFault) (s : State) : Result := .next (raise f s)

/-- The command completes: `ST = 0x00`, `RD` its read result, or 0 when it has none (30_encoding.md R70). -/
def complete (rd : Datum) (s : State) : Result := .next { s with answer := some { st := 0x00, rd := rd } }

/-! ### The checks, in the order 30_encoding.md R77 makes them -/

/-- NotReady unless `READY = 1` (60_exceptions.md R184). -/
def requireReady (s : State) (body : Result) : Result := if s.ready then body else fail .notReady s

/-- LaneIndexError unless `x` and `y` are lanes (60_exceptions.md R185). -/
def withLane (x y : Nat) (s : State) (body : Fin 5 → Fin 5 → Result) : Result :=
  if h : x < 5 ∧ y < 5 then body ⟨x, h.1⟩ ⟨y, h.2⟩ else fail .laneIndexError s

/-- IndexRangeError unless `i` is below the size of what it indexes, or a datum below the bound of what it is written
to (60_exceptions.md R186). -/
def requireBelow (i size : Nat) (s : State) (body : Result) : Result :=
  if i < size then body else fail .indexRangeError s

/-- RoundIndexError unless `RIDX < ROUNDS` (60_exceptions.md R187). -/
def requireRound (s : State) (body : Result) : Result :=
  if s.ridx.toNat < s.rounds.toNat then body else fail .roundIndexError s

/-- PrecisionError unless `OUT_BITS <= RED_MAX_BITS` (60_exceptions.md R188). -/
def requirePrecision (s : State) (body : Result) : Result :=
  if s.outBits.toNat ≤ s.build.redMaxBits then body else fail .precisionError s

end Sys2Proof.Machine
end

