-- ==== Sys2Proof/Machine/Operands.lean ====
section
/-! DEFINITION. The operands of the commands beyond single lanes and words: rate and output sizes, the byte view of the
grid, rows of the tables, limbs of the wide registers, the digest as an integer. -/

namespace Sys2Proof.Machine

/-- `RATE_BYTES = RATE_BITS div 8` (10_state.md R37). -/
def State.rateBytes (s : State) : Nat := s.rateBits.toNat / 8

/-- `OUT_BYTES = OUT_BITS div 8` (10_state.md R37). -/
def State.outBytes (s : State) : Nat := s.outBits.toNat / 8

/-- `lanepos(i)`: the lane that holds bytes `8i .. 8i+7` of a block (00_scope.md R13). -/
def lanePos (o : LaneOrder) (i : Nat) : Fin 5 × Fin 5 :=
  match o with
  | .xOuter => (Fin.ofNat 5 (i / 5), Fin.ofNat 5 (i % 5))
  | .yOuter => (Fin.ofNat 5 (i % 5), Fin.ofNat 5 (i / 5))

/-- `SB(j)`: byte `j mod 8` of lane `lanepos(j div 8)`, least significant byte first (00_scope.md R14). -/
def stateByte (o : LaneOrder) (a : Grid) (j : Nat) : Byte :=
  let p := lanePos o (j / 8)
  a[p.1][p.2].extractLsb' (8 * (j % 8)) 8

/-- `SB(j) <- SB(j) XOR b`: the other 56 bits of the lane are left (00_scope.md R14). -/
def xorStateByte (o : LaneOrder) (j : Nat) (b : Byte) (a : Grid) : Grid :=
  let p := lanePos o (j / 8)
  setLane p.1 p.2 (a[p.1][p.2] ^^^ (b.setWidth 64 <<< (8 * (j % 8)))) a

/-- The rotation offset `ROT[x][y]` (10_state.md R23). -/
def State.rotation (s : State) (x y : Fin 5) : Shift := s.build.rot[x][y]

/-- Row `r` of `KSH` (10_state.md R22; log 12). -/
def State.shiftRow (s : State) (r : Nat) : ShiftRow := s.ksh.getD r (Lanes.fill 0)

/-- `KSH` with entry `[r][x][y]` replaced. -/
def setShift (r : Nat) (x y : Fin 5) (v : Shift) (ksh : List ShiftRow) : List ShiftRow :=
  ksh.modify r (setLane x y v)

/-- `RC[r]` (10_state.md R24; log 12). -/
def State.roundConstant (s : State) (r : Nat) : Lane := s.build.rc.getD r 0

/-- Limb `i` of a wide register: bits `64i+63 .. 64i` (20_memory.md R55). -/
def limb (q i : Nat) : Datum := BitVec.ofNat 64 (q / 2 ^ (64 * i))

/-- A wide register with limb `i` replaced, the other limbs unchanged (20_memory.md R55, 43_reducer.md R164). -/
def setLimb (q i : Nat) (v : Datum) : Nat :=
  q / 2 ^ (64 * (i + 1)) * 2 ^ (64 * (i + 1)) + v.toNat * 2 ^ (64 * i) + q % 2 ^ (64 * i)

/-- `H`: the first `n` digest bytes read as a big-endian integer, "`sum over j in [0,OUT_BYTES) of DIG[j] *
256^(OUT_BYTES-1-j)`" (20_memory.md R54). -/
def digestInteger (dig : Memory) (n : Nat) : Nat :=
  ((List.range n).map fun j => (dig.read j).toNat * 256 ^ (n - 1 - j)).sum

end Sys2Proof.Machine
end

