-- ==== Sys2Proof/Machine/Flags.lean ====
section
/-! DEFINITION. The status bits and what decides them: the configuration check behind `READY`, the zero-forcing test
behind `FZ`, and the control-register map (10_state.md R29 to R36, R42). -/

namespace Sys2Proof.Machine

/-- `CfgCheck()` on the values of `ROUNDS`, `RATE_BITS`, `CAP_BITS`, `OUT_BITS`: the number of the first test that
fails, or 0, on unbounded integers (40_state_access.md R91). -/
def configCheck (b : Params) (rounds rate cap out : Nat) : Nat :=
  if rate + cap ≠ stateBits then 1
  else if out = 0 then 2
  else if rounds = 0 then 3
  else if rounds > b.maxRounds then 4
  else if rate = 0 ∨ rate % 8 ≠ 0 then 5
  else if out % 8 ≠ 0 ∨ out > b.maxOutBits then 6
  else 0

/-- `CfgCheck()` of the current configuration (40_state_access.md R91). -/
def State.configCheck (s : State) : Nat :=
  Machine.configCheck s.build s.rounds.toNat s.rateBits.toNat s.capBits.toNat s.outBits.toNat

/-- `near`: the remainder `r` of the division by π lies within `1/EPS_DEN` of an integer boundary, strictly, on either
side (43_reducer.md R161, 90_conflicts.md C2). -/
def nearInteger (b : Params) (r : Nat) : Bool :=
  decide (r * epsDen < b.piNum) || decide ((b.piNum - r) * epsDen < b.piNum)

/-- `STATUS`, assembled at the read (10_state.md R34). -/
def State.statusWord (s : State) : Datum :=
  (BitVec.ofBool s.ready).setWidth 64 ||| (BitVec.ofBool s.fz).setWidth 64 <<< 1 |||
    s.lastErr.setWidth 64 <<< 8 ||| s.errInfo.setWidth 64 <<< 16

/-- `LIMITS`, a constant of the build (10_state.md R35). -/
def limitsWord (b : Params) : Datum :=
  (BitVec.ofNat 8 b.maxRounds).setWidth 64 ||| (BitVec.ofNat 16 b.maxOutBits).setWidth 64 <<< 16 |||
    (BitVec.ofNat 16 b.redMaxBits).setWidth 64 <<< 32

/-- `CR[n]` as `RDCR` reads it, for the registers 0 to 8 of 10_state.md R36. -/
def State.readControl (s : State) (n : Nat) : Datum :=
  match n with
  | 0 => s.rounds
  | 1 => s.rateBits
  | 2 => s.capBits
  | 3 => s.outBits
  | 4 => s.ridx
  | 5 => s.statusWord
  | 6 => s.flatI.setWidth 64
  | 7 => s.flatF.setWidth 64
  | 8 => limitsWord s.build
  | _ => 0

/-- `CR[n] <- v` for the writable registers 0 to 4, with the fall of `READY` for the four configuration registers
(10_state.md R32, R36, 40_state_access.md R92). -/
def State.writeControl (s : State) (n : Nat) (v : Datum) : State :=
  match n with
  | 0 => { s with rounds := v, ready := false }
  | 1 => { s with rateBits := v, ready := false }
  | 2 => { s with capBits := v, ready := false }
  | 3 => { s with outBits := v, ready := false }
  | 4 => { s with ridx := v }
  | _ => s

end Sys2Proof.Machine
end

