-- ==== Sys2Proof/Machine/Permutation.lean ====
section
/-! DEFINITION. The permutation commands (41_permutation.md R110 to R120). Every step computes a whole grid from the
whole grid before it (R119). -/

namespace Sys2Proof.Machine

/-! ### The six steps -/

/-- The keyed diffusion step: each lane XORed with its key lane shifted right, logically, by its entry of the round's
row of the shift table (41_permutation.md R111). -/
def kappaGrid (k : Grid) (row : ShiftRow) (a : Grid) : Grid :=
  tabulate fun x y => a[x][y] ^^^ shr64 k[x][y] row[x][y].toNat

/-- `C[x]`, the parity of column `x` (41_permutation.md R112). -/
def columnParity (a : Grid) (x : Fin 5) : Lane :=
  a[x][(0 : Fin 5)] ^^^ a[x][(1 : Fin 5)] ^^^ a[x][(2 : Fin 5)] ^^^ a[x][(3 : Fin 5)] ^^^ a[x][(4 : Fin 5)]

/-- `D[x] = C[(x+4) mod 5] XOR rotl64(C[(x+1) mod 5], 1)` (41_permutation.md R112). -/
def columnMix (a : Grid) (x : Fin 5) : Lane := columnParity a (x + 4) ^^^ rotl64 (columnParity a (x + 1)) 1

/-- Column-parity mixing (41_permutation.md R112). -/
def cpmixGrid (a : Grid) : Grid := tabulate fun x y => a[x][y] ^^^ columnMix a x

/-- Per-lane rotation (41_permutation.md R113). -/
def lrotGrid (rot : ShiftRow) (a : Grid) : Grid := tabulate fun x y => rotl64 a[x][y] rot[x][y].toNat

/-- Lane relocation, by the source of each target: `A'[a][b] = A[b][(2a + 3b) mod 5]`, the form 41_permutation.md R114
derives from its own map `(x,y) -> ((x+3y) mod 5, x)`. It is the source document's direction, not that of FIPS 202. -/
def lrelocGrid (a : Grid) : Grid := tabulate fun x y => a[y][2 * x + 3 * y]

/-- Nonlinear combination along a row (41_permutation.md R115). -/
def nlcombGrid (a : Grid) : Grid := tabulate fun x y => a[x][y] ^^^ (not64 a[x + 1][y] &&& a[x + 2][y])

/-- Constant injection: lane `(0,0)` XORed with the round constant (41_permutation.md R116). -/
def cinjGrid (rc : Lane) (a : Grid) : Grid := setLane 0 0 (a[(0 : Fin 5)][(0 : Fin 5)] ^^^ rc) a

/-! ### The round and the permutation -/

/-- One round at `RIDX`, then its advance: the six steps in the order of 41_permutation.md R117, and
`RIDX <- (r + 1) mod ROUNDS`. -/
def roundState (s : State) : State :=
  let r := s.ridx.toNat
  { s with
    a := cinjGrid (s.roundConstant r) <| nlcombGrid <| lrelocGrid <| lrotGrid s.build.rot <| cpmixGrid <|
      kappaGrid s.k (s.shiftRow r) s.a
    ridx := BitVec.ofNat 64 ((r + 1) % s.rounds.toNat) }

/-- `n` rounds, one after the other. -/
def runRounds : Nat → State → State
  | 0, s => s
  | n + 1, s => runRounds n (roundState s)

/-- The full permutation: `RIDX <- 0`, then `ROUNDS` rounds (41_permutation.md R118). -/
def permute (s : State) : State := runRounds s.rounds.toNat { s with ridx := 0 }

/-! ### The commands -/

/-- `KAPPA` (41_permutation.md R111). -/
def execKappa (s : State) : Result :=
  requireReady s <| requireRound s <| complete 0 { s with a := kappaGrid s.k (s.shiftRow s.ridx.toNat) s.a }

/-- `CPMIX` (41_permutation.md R112). -/
def execCpmix (s : State) : Result :=
  requireReady s <| complete 0 { s with a := cpmixGrid s.a }

/-- `LROT` (41_permutation.md R113). -/
def execLrot (s : State) : Result :=
  requireReady s <| complete 0 { s with a := lrotGrid s.build.rot s.a }

/-- `LRELOC` (41_permutation.md R114). -/
def execLreloc (s : State) : Result :=
  requireReady s <| complete 0 { s with a := lrelocGrid s.a }

/-- `NLCOMB` (41_permutation.md R115). -/
def execNlcomb (s : State) : Result :=
  requireReady s <| complete 0 { s with a := nlcombGrid s.a }

/-- `CINJ` (41_permutation.md R116). -/
def execCinj (s : State) : Result :=
  requireReady s <| requireRound s <| complete 0 { s with a := cinjGrid (s.roundConstant s.ridx.toNat) s.a }

/-- `ROUND` (41_permutation.md R117). -/
def execRound (s : State) : Result :=
  requireReady s <| requireRound s <| complete 0 (roundState s)

/-- `PERM` (41_permutation.md R118). -/
def execPerm (s : State) : Result :=
  requireReady s <| complete 0 (permute s)

end Sys2Proof.Machine
end

