-- ==== Sys2Proof/Machine/Reducer.lean ====
section
/-! DEFINITION. The post-processing reducer (43_reducer.md R160 to R169): exact arithmetic on unbounded non-negative
integers. -/

namespace Sys2Proof.Machine

/-- `reduce(H)`: quotient and remainder of the division by π, the zero-forcing test, and the four fields it writes
(43_reducer.md R161). -/
def reduceState (h : Nat) (s : State) : State :=
  let n := h * s.build.piDen
  let q := n / s.build.piNum
  let r := n % s.build.piNum
  let near := nearInteger s.build r
  { s with
    quot := q
    fz := near
    flatI := if near then 0 else BitVec.ofNat 9 (q % reducerMod)
    flatF := if near then 0 else BitVec.ofNat 62 r }

/-- `recover(Qv, b) = ((Qv * PI_NUM) div PI_DEN) mod 2^b` (43_reducer.md R165). -/
def recoverInteger (b : Params) (q bits : Nat) : Nat := q * b.piNum / b.piDen % 2 ^ bits

/-- `RED` (43_reducer.md R162). -/
def execRed (s : State) : Result :=
  requireReady s <| requirePrecision s <| complete 0 (reduceState (digestInteger s.dig s.outBytes) s)

/-- `RDQ i` (43_reducer.md R163). -/
def execRdq (i : Nat) (s : State) : Result :=
  requireBelow i s.build.redLimbs s <| complete (limb s.quot i) s

/-- `WRQ i = v` (43_reducer.md R164). -/
def execWrq (i : Nat) (wd : Datum) (s : State) : Result :=
  requireBelow i s.build.redLimbs s <| complete 0 { s with quot := setLimb s.quot i wd }

/-- `REC` (43_reducer.md R166). -/
def execRecover (s : State) : Result :=
  requireReady s <| requirePrecision s <|
    complete 0 { s with rcv := recoverInteger s.build s.quot s.outBits.toNat }

/-- `RDREC i` (43_reducer.md R167). -/
def execRdrec (i : Nat) (s : State) : Result :=
  requireBelow i s.build.redLimbs s <| complete (limb s.rcv i) s

end Sys2Proof.Machine
end

