-- ==== Sys2Proof/Machine/Sponge.lean ====
section
/-! DEFINITION. The sponge commands (42_sponge.md R130 to R140). -/

namespace Sys2Proof.Machine

/-! ### Padding and absorbing -/

/-- The number of padding bytes for a message of `len` bytes: the smallest `p >= 2` that makes the total a multiple of
`rb` (42_sponge.md R133). -/
def padLength (rb len : Nat) : Nat := if 2 ≤ rb - len % rb then rb - len % rb else rb - len % rb + rb

/-- The padded message: `0x06`, then zero bytes, then `0x80`; the two are never merged (42_sponge.md R133). -/
def pad (rb : Nat) (msg : List Byte) : List Byte :=
  msg ++ padFirst :: List.replicate (padLength rb msg.length - 2) 0 ++ [padLast]

/-- The bytes `bs` XORed into `SB(j)`, `SB(j+1)`, … (42_sponge.md R134). -/
def xorBytes (o : LaneOrder) : Nat → List Byte → Grid → Grid
  | _, [], a => a
  | j, b :: bs, a => xorBytes o (j + 1) bs (xorStateByte o j b a)

/-- `absorb(blk)`: XOR the block into the rate portion, then the full permutation (42_sponge.md R134). -/
def absorb (blk : List Byte) (s : State) : State := permute { s with a := xorBytes s.build.laneOrder 0 blk s.a }

/-- `ABSF`'s work on the last `n` message bytes: one block when at least two bytes are free, else two
(42_sponge.md R136). -/
def absorbFinal (n : Nat) (s : State) : State :=
  let rb := s.rateBytes
  if n + 2 ≤ rb then
    absorb (s.buf.bytes 0 n ++ padFirst :: List.replicate (rb - n - 2) 0 ++ [padLast]) s
  else
    absorb (List.replicate (rb - 1) 0 ++ [padLast]) (absorb (s.buf.bytes 0 n ++ [padFirst]) s)

/-! ### Squeezing -/

/-- `squeeze()` with `need` bytes still to come: an extraction of at most `RATE_BYTES` bytes, and a permutation only
between extractions (42_sponge.md R137). `fuel` bounds the extractions; each gives at least one byte, so
`fuel = need` is enough. -/
def squeezeFrom : Nat → Nat → State → List Byte × State
  | 0, _, s => ([], s)
  | fuel + 1, need, s =>
    let take := min s.rateBytes need
    let out := (List.range take).map (stateByte s.build.laneOrder s.a)
    if take = need then (out, s)
    else
      let rest := squeezeFrom fuel (need - take) (permute s)
      (out ++ rest.1, rest.2)

/-- `squeeze()`: the `OUT_BYTES` bytes of the digest, and the state the permutations between extractions leave
(42_sponge.md R137). -/
def squeeze (s : State) : List Byte × State := squeezeFrom s.outBytes s.outBytes s

/-! ### The commands -/

/-- `WRBUF i = v` (42_sponge.md R130). -/
def execWrbuf (i : Nat) (wd : Datum) (s : State) : Result :=
  requireBelow i bufWords s <| complete 0 { s with buf := s.buf.writeWord i wd }

/-- `WRBB off = b` (42_sponge.md R131). -/
def execWrbb (off : Nat) (wd : Datum) (s : State) : Result :=
  requireBelow off bufBytes s <| requireBelow wd.toNat 256 s <|
    complete 0 { s with buf := s.buf.write off (wd.extractLsb' 0 8) }

/-- `RDBUF i` (42_sponge.md R132). -/
def execRdbuf (i : Nat) (s : State) : Result :=
  requireBelow i bufWords s <| complete (s.buf.readWord i) s

/-- `ABSB` (42_sponge.md R135). -/
def execAbsb (s : State) : Result :=
  requireReady s <| complete 0 (absorb (s.buf.bytes 0 s.rateBytes) s)

/-- `ABSF n` (42_sponge.md R136). -/
def execAbsf (n : Nat) (s : State) : Result :=
  requireReady s <| requireBelow n s.rateBytes s <| complete 0 (absorbFinal n s)

/-- `SQZ`: the squeezed bytes at the start of `DIG`, the rest of `DIG` zero (42_sponge.md R138). -/
def execSqz (s : State) : Result :=
  requireReady s <| complete 0 { (squeeze s).2 with dig := Memory.store [] 0 (squeeze s).1 }

/-- `RDDIG i` (42_sponge.md R139). -/
def execRddig (i : Nat) (s : State) : Result :=
  requireBelow i s.build.digWords s <| complete (s.dig.readWord i) s

/-- `WRDIG i = v` (42_sponge.md R140). -/
def execWrdig (i : Nat) (wd : Datum) (s : State) : Result :=
  requireBelow i s.build.digWords s <| complete 0 { s with dig := s.dig.writeWord i wd }

end Sys2Proof.Machine
end

