-- ==== Sys2Proof/Machine/StateAccess.lean ====
section
/-! DEFINITION. The state access commands (40_state_access.md R90 to R100). -/

namespace Sys2Proof.Machine

/-- What a passing `INIT` leaves: `READY` set, the computation's state zeroed, the shift table, the configuration and
the fault record kept (40_state_access.md R90). -/
def beginComputation (s : State) : State :=
  { s with
    ready := true
    a := Lanes.fill 0
    k := Lanes.fill 0
    buf := []
    dig := []
    quot := 0
    rcv := 0
    flatI := 0
    flatF := 0
    fz := false
    ridx := 0 }

/-- `INIT` (40_state_access.md R90). -/
def execInit (s : State) : Result :=
  if s.configCheck = 0 then complete 0 (beginComputation s) else fail (.configurationError s.configCheck) s

/-- `WRCR n = v` (40_state_access.md R92). -/
def execWrcr (n : Nat) (wd : Datum) (s : State) : Result :=
  requireBelow n 5 s <| complete 0 (s.writeControl n wd)

/-- `RDCR n` (40_state_access.md R93). -/
def execRdcr (n : Nat) (s : State) : Result :=
  requireBelow n 9 s <| complete (s.readControl n) s

/-- `LDK x,y = v` (40_state_access.md R94). -/
def execLdk (x y : Nat) (wd : Datum) (s : State) : Result :=
  withLane x y s fun x y => complete 0 { s with k := setLane x y wd s.k }

/-- `LDSH r, x,y = s` (40_state_access.md R95). -/
def execLdsh (r x y : Nat) (wd : Datum) (s : State) : Result :=
  withLane x y s fun x y => requireBelow r s.build.maxRounds s <| requireBelow wd.toNat 64 s <|
    complete 0 { s with ksh := setShift r x y (wd.extractLsb' 0 6) s.ksh }

/-- `RDSH r, x,y` (40_state_access.md R96). -/
def execRdsh (r x y : Nat) (s : State) : Result :=
  withLane x y s fun x y => requireBelow r s.build.maxRounds s <|
    complete ((s.shiftRow r)[x][y].setWidth 64) s

/-- `XORL x,y = v` (40_state_access.md R97). -/
def execXorl (x y : Nat) (wd : Datum) (s : State) : Result :=
  withLane x y s fun x y => complete 0 { s with a := setLane x y (s.a[x][y] ^^^ wd) s.a }

/-- `RDL x,y` (40_state_access.md R98). -/
def execRdl (x y : Nat) (s : State) : Result :=
  withLane x y s fun x y => complete s.a[x][y] s

/-- `RDROT x,y` (40_state_access.md R99). -/
def execRdrot (x y : Nat) (s : State) : Result :=
  withLane x y s fun x y => complete ((s.rotation x y).setWidth 64) s

/-- `RDRC r` (40_state_access.md R100). -/
def execRdrc (r : Nat) (s : State) : Result :=
  requireBelow r s.build.maxRounds s <| complete (s.roundConstant r) s

end Sys2Proof.Machine
end

