-- ==== Sys2Proof/Syntax.lean ====
section
/-! DEFINITION. The 31 commands of 30_encoding.md R74, one constructor per row of spec/opcode_table.json, in the
table's order. A command is its word and, where it uses one, its write datum (R70, R78); the operands `IDX`, `X`, `Y`
are "the unsigned numbers they spell" (R73). -/

namespace Sys2Proof

inductive Instr where
  /-- `INIT` (40_state_access.md R90). -/
  | init
  /-- `WRCR n = wd` (R92). -/
  | wrcr (n : Nat) (wd : Datum)
  /-- `RDCR n` (R93). -/
  | rdcr (n : Nat)
  /-- `LDK x,y = wd` (R94). -/
  | ldk (x y : Nat) (wd : Datum)
  /-- `LDSH r, x,y = wd` (R95). -/
  | ldsh (r x y : Nat) (wd : Datum)
  /-- `RDSH r, x,y` (R96). -/
  | rdsh (r x y : Nat)
  /-- `XORL x,y = wd` (R97). -/
  | xorl (x y : Nat) (wd : Datum)
  /-- `RDL x,y` (R98). -/
  | rdl (x y : Nat)
  /-- `RDROT x,y` (R99). -/
  | rdrot (x y : Nat)
  /-- `RDRC r` (R100). -/
  | rdrc (r : Nat)
  /-- `KAPPA` (41_permutation.md R111). -/
  | kappa
  /-- `CPMIX` (R112). -/
  | cpmix
  /-- `LROT` (R113). -/
  | lrot
  /-- `LRELOC` (R114). -/
  | lreloc
  /-- `NLCOMB` (R115). -/
  | nlcomb
  /-- `CINJ` (R116). -/
  | cinj
  /-- `ROUND` (R117). -/
  | round
  /-- `PERM` (R118). -/
  | perm
  /-- `WRBUF i = wd` (42_sponge.md R130). -/
  | wrbuf (i : Nat) (wd : Datum)
  /-- `WRBB off = wd` (R131). -/
  | wrbb (off : Nat) (wd : Datum)
  /-- `RDBUF i` (R132). -/
  | rdbuf (i : Nat)
  /-- `ABSB` (R135). -/
  | absb
  /-- `ABSF n` (R136). -/
  | absf (n : Nat)
  /-- `SQZ` (R138). -/
  | sqz
  /-- `RDDIG i` (R139). -/
  | rddig (i : Nat)
  /-- `WRDIG i = wd` (R140). -/
  | wrdig (i : Nat) (wd : Datum)
  /-- `RED` (43_reducer.md R162). -/
  | red
  /-- `RDQ i` (R163). -/
  | rdq (i : Nat)
  /-- `WRQ i = wd` (R164). -/
  | wrq (i : Nat) (wd : Datum)
  /-- `REC` (R166); `rec` is Lean's own name for the type's recursor. -/
  | recover
  /-- `RDREC i` (R167). -/
  | rdrec (i : Nat)
deriving DecidableEq, Repr

end Sys2Proof
end

