-- ==== Sys2Proof/Machine/Dispatch.lean ====
section
/-! DEFINITION. The meaning of each command, one arm per row of 30_encoding.md R74. -/

namespace Sys2Proof.Machine

def exec (i : Instr) (s : State) : Host.Outcome State Fault Refusal :=
  match i with
  | .init => Sys2Proof.Machine.execInit s
  | .wrcr n wd => Sys2Proof.Machine.execWrcr n wd s
  | .rdcr n => Sys2Proof.Machine.execRdcr n s
  | .ldk x y wd => Sys2Proof.Machine.execLdk x y wd s
  | .ldsh r x y wd => Sys2Proof.Machine.execLdsh r x y wd s
  | .rdsh r x y => Sys2Proof.Machine.execRdsh r x y s
  | .xorl x y wd => Sys2Proof.Machine.execXorl x y wd s
  | .rdl x y => Sys2Proof.Machine.execRdl x y s
  | .rdrot x y => Sys2Proof.Machine.execRdrot x y s
  | .rdrc r => Sys2Proof.Machine.execRdrc r s
  | .kappa => Sys2Proof.Machine.execKappa s
  | .cpmix => Sys2Proof.Machine.execCpmix s
  | .lrot => Sys2Proof.Machine.execLrot s
  | .lreloc => Sys2Proof.Machine.execLreloc s
  | .nlcomb => Sys2Proof.Machine.execNlcomb s
  | .cinj => Sys2Proof.Machine.execCinj s
  | .round => Sys2Proof.Machine.execRound s
  | .perm => Sys2Proof.Machine.execPerm s
  | .wrbuf w wd => Sys2Proof.Machine.execWrbuf w wd s
  | .wrbb off wd => Sys2Proof.Machine.execWrbb off wd s
  | .rdbuf w => Sys2Proof.Machine.execRdbuf w s
  | .absb => Sys2Proof.Machine.execAbsb s
  | .absf n => Sys2Proof.Machine.execAbsf n s
  | .sqz => Sys2Proof.Machine.execSqz s
  | .rddig w => Sys2Proof.Machine.execRddig w s
  | .wrdig w wd => Sys2Proof.Machine.execWrdig w wd s
  | .red => Sys2Proof.Machine.execRed s
  | .rdq l => Sys2Proof.Machine.execRdq l s
  | .wrq l wd => Sys2Proof.Machine.execWrq l wd s
  | .recover => Sys2Proof.Machine.execRecover s
  | .rdrec l => Sys2Proof.Machine.execRdrec l s

end Sys2Proof.Machine
end

