-- ==== Sys2Proof/WellFormed.lean ====
section
/-! DEFINITION. Which commands have an encoding: each operand fits the field that spells it (30_encoding.md R71).
`X` and `Y` may spell 5, 6 and 7, which are not lanes: such a command is well formed and then raises
LaneIndexError (R73). -/

namespace Sys2Proof

/-- `IDX` is an 8-bit field (30_encoding.md R71). -/
abbrev fitsIdx (n : Nat) : Prop := n < 256

/-- `X` and `Y` are 3-bit fields (30_encoding.md R71). -/
abbrev fitsLane (x y : Nat) : Prop := x < 8 ∧ y < 8

/-- Every operand fits its field. -/
def Instr.wellFormed (i : Instr) : Bool :=
  match i with
  | .init | .kappa | .cpmix | .lrot | .lreloc | .nlcomb | .cinj | .round | .perm => true
  | .absb | .sqz | .red | .recover => true
  | .wrcr n _ | .rdcr n | .rdrc n => decide (fitsIdx n)
  | .ldk x y _ | .xorl x y _ | .rdl x y | .rdrot x y => decide (fitsLane x y)
  | .ldsh r x y _ | .rdsh r x y => decide (fitsIdx r ∧ fitsLane x y)
  | .wrbuf n _ | .wrbb n _ | .rdbuf n | .absf n => decide (fitsIdx n)
  | .rddig n | .wrdig n _ => decide (fitsIdx n)
  | .rdq n | .wrq n _ | .rdrec n => decide (fitsIdx n)

end Sys2Proof
end

