-- ==== Sys2Proof/Decode.lean ====
section
/-! DEFINITION. The decoder, total on every command word and rejecting by name, and the encoder
(30_encoding.md R71 to R76). -/

namespace Sys2Proof

/-- The four formats (30_encoding.md R72). -/
inductive Format where
  /-- no operand -/
  | n
  /-- `IDX` -/
  | i
  /-- `X`, `Y` -/
  | l
  /-- `IDX`, `X`, `Y` -/
  | rl
deriving DecidableEq, Repr

/-- Why a command word is illegal (30_encoding.md R75). -/
inductive DecodeError where
  /-- its `OPC` is not one of the 31 of R74 -/
  | unassignedOpcode
  /-- its `OPC` is assigned and a bit its format requires to be zero is 1 -/
  | reservedBits
deriving DecidableEq, Repr

/-- The mask column of 30_encoding.md R72: the bits a word of the format has fixed. -/
def Format.mask : Format → CommandWord
  | .n => 0xFFFFFFFF
  | .i => 0xFF00FFFF
  | .l => 0xFFFFFF88
  | .rl => 0xFF00FF88

/-- `OPC`, bits 31:24 (30_encoding.md R71). -/
def opcOf (cw : CommandWord) : Nat := (cw.extractLsb' 24 8).toNat
/-- `IDX`, bits 23:16. -/
def idxOf (cw : CommandWord) : Nat := (cw.extractLsb' 16 8).toNat
/-- `X`, bits 6:4. -/
def xOf (cw : CommandWord) : Nat := (cw.extractLsb' 4 3).toNat
/-- `Y`, bits 2:0. -/
def yOf (cw : CommandWord) : Nat := (cw.extractLsb' 0 3).toNat

/-- The row of 30_encoding.md R74 that an opcode selects: its format, and its command with the operands `idx`, `x`,
`y` and write datum `wd`. -/
def rowOf (opc idx x y : Nat) (wd : Datum) : Option (Format × Instr) :=
  match opc with
  | 0x01 => some (.n, .init)
  | 0x02 => some (.i, .wrcr idx wd)
  | 0x03 => some (.i, .rdcr idx)
  | 0x04 => some (.l, .ldk x y wd)
  | 0x05 => some (.rl, .ldsh idx x y wd)
  | 0x06 => some (.rl, .rdsh idx x y)
  | 0x07 => some (.l, .xorl x y wd)
  | 0x08 => some (.l, .rdl x y)
  | 0x09 => some (.l, .rdrot x y)
  | 0x0A => some (.i, .rdrc idx)
  | 0x10 => some (.n, .kappa)
  | 0x11 => some (.n, .cpmix)
  | 0x12 => some (.n, .lrot)
  | 0x13 => some (.n, .lreloc)
  | 0x14 => some (.n, .nlcomb)
  | 0x15 => some (.n, .cinj)
  | 0x16 => some (.n, .round)
  | 0x17 => some (.n, .perm)
  | 0x20 => some (.i, .wrbuf idx wd)
  | 0x21 => some (.i, .wrbb idx wd)
  | 0x22 => some (.i, .rdbuf idx)
  | 0x23 => some (.n, .absb)
  | 0x24 => some (.i, .absf idx)
  | 0x25 => some (.n, .sqz)
  | 0x26 => some (.i, .rddig idx)
  | 0x27 => some (.i, .wrdig idx wd)
  | 0x30 => some (.n, .red)
  | 0x31 => some (.i, .rdq idx)
  | 0x32 => some (.i, .wrq idx wd)
  | 0x33 => some (.n, .recover)
  | 0x34 => some (.i, .rdrec idx)
  | _ => none

/-- The command a transaction's words spell, or why the command word is illegal: "A command word matches a row when
`CW AND mask = match`, with `match = OPC * 2^24`" (30_encoding.md R72, R75, R76). -/
def decode (cw : CommandWord) (wd : Datum) : Except DecodeError Instr :=
  match rowOf (opcOf cw) (idxOf cw) (xOf cw) (yOf cw) wd with
  | none => .error .unassignedOpcode
  | some (f, i) =>
    if cw &&& f.mask = BitVec.ofNat 32 (opcOf cw) <<< 24 then .ok i else .error .reservedBits

/-- `OPC` of each command (30_encoding.md R74). -/
def Instr.opcode (i : Instr) : Nat :=
  match i with
  | .init => 0x01
  | .wrcr _ _ => 0x02
  | .rdcr _ => 0x03
  | .ldk _ _ _ => 0x04
  | .ldsh _ _ _ _ => 0x05
  | .rdsh _ _ _ => 0x06
  | .xorl _ _ _ => 0x07
  | .rdl _ _ => 0x08
  | .rdrot _ _ => 0x09
  | .rdrc _ => 0x0A
  | .kappa => 0x10
  | .cpmix => 0x11
  | .lrot => 0x12
  | .lreloc => 0x13
  | .nlcomb => 0x14
  | .cinj => 0x15
  | .round => 0x16
  | .perm => 0x17
  | .wrbuf _ _ => 0x20
  | .wrbb _ _ => 0x21
  | .rdbuf _ => 0x22
  | .absb => 0x23
  | .absf _ => 0x24
  | .sqz => 0x25
  | .rddig _ => 0x26
  | .wrdig _ _ => 0x27
  | .red => 0x30
  | .rdq _ => 0x31
  | .wrq _ _ => 0x32
  | .recover => 0x33
  | .rdrec _ => 0x34

/-- A command word from its fields, laid out as the pattern of format RL, of which the other formats are the cases with
unused fields 0: `oooooooo iiiiiiii 00000000 0xxx0yyy` (30_encoding.md R71, R72). -/
def commandWord (opc idx x y : Nat) : CommandWord :=
  BitVec.ofNat 8 opc ++ BitVec.ofNat 8 idx ++ 0#8 ++ 0#1 ++ BitVec.ofNat 3 x ++ 0#1 ++ BitVec.ofNat 3 y

/-- The command word and write datum of a command; the datum is 0 for a command that ignores it
(30_encoding.md R70, R78). -/
def encode (i : Instr) : CommandWord × Datum :=
  match i with
  | .wrcr n wd | .wrbuf n wd | .wrbb n wd | .wrdig n wd | .wrq n wd => (commandWord i.opcode n 0 0, wd)
  | .rdcr n | .rdrc n | .rdbuf n | .absf n | .rddig n | .rdq n | .rdrec n => (commandWord i.opcode n 0 0, 0)
  | .ldk x y wd | .xorl x y wd => (commandWord i.opcode 0 x y, wd)
  | .rdl x y | .rdrot x y => (commandWord i.opcode 0 x y, 0)
  | .ldsh r x y wd => (commandWord i.opcode r x y, wd)
  | .rdsh r x y => (commandWord i.opcode r x y, 0)
  | .init | .kappa | .cpmix | .lrot | .lreloc | .nlcomb | .cinj | .round | .perm
  | .absb | .sqz | .red | .recover => (commandWord i.opcode 0 0 0, 0)

/-- Whether a command uses its write datum: the `WD` column of 30_encoding.md R74. -/
def Instr.usesDatum (i : Instr) : Bool :=
  match i with
  | .wrcr _ _ | .ldk _ _ _ | .ldsh _ _ _ _ | .xorl _ _ _ | .wrbuf _ _ | .wrbb _ _ | .wrdig _ _ | .wrq _ _ => true
  | .init | .rdcr _ | .rdsh _ _ _ | .rdl _ _ | .rdrot _ _ | .rdrc _ | .kappa | .cpmix | .lrot | .lreloc | .nlcomb
  | .cinj | .round | .perm | .rdbuf _ | .absb | .absf _ | .sqz | .rddig _ | .red | .rdq _ | .recover | .rdrec _ => false

/-- The `match` and `mask` columns of the opcode table, row by row (30_encoding.md R72, R74). The decoder is not made
from it: that the two agree is a statement. -/
def encodingRows : List (CommandWord × CommandWord) :=
  [(0x01000000, 0xFFFFFFFF), (0x02000000, 0xFF00FFFF), (0x03000000, 0xFF00FFFF),
   (0x04000000, 0xFFFFFF88), (0x05000000, 0xFF00FF88), (0x06000000, 0xFF00FF88),
   (0x07000000, 0xFFFFFF88), (0x08000000, 0xFFFFFF88), (0x09000000, 0xFFFFFF88),
   (0x0A000000, 0xFF00FFFF), (0x10000000, 0xFFFFFFFF), (0x11000000, 0xFFFFFFFF),
   (0x12000000, 0xFFFFFFFF), (0x13000000, 0xFFFFFFFF), (0x14000000, 0xFFFFFFFF),
   (0x15000000, 0xFFFFFFFF), (0x16000000, 0xFFFFFFFF), (0x17000000, 0xFFFFFFFF),
   (0x20000000, 0xFF00FFFF), (0x21000000, 0xFF00FFFF), (0x22000000, 0xFF00FFFF),
   (0x23000000, 0xFFFFFFFF), (0x24000000, 0xFF00FFFF), (0x25000000, 0xFFFFFFFF),
   (0x26000000, 0xFF00FFFF), (0x27000000, 0xFF00FFFF), (0x30000000, 0xFFFFFFFF),
   (0x31000000, 0xFF00FFFF), (0x32000000, 0xFF00FFFF), (0x33000000, 0xFFFFFFFF),
   (0x34000000, 0xFF00FFFF)]

/-- A transaction from one number, the command word in bits 31:0 and the write datum in bits 95:32 (log 6): the form
in which the opcode table's rows are numbered. Only the low `nbits` bits of `w` count; the rest are 0. -/
def transactionOf (nbits w : Nat) : CommandWord × Datum :=
  let all := BitVec.ofNat 96 (w % 2 ^ nbits)
  (all.extractLsb' 0 32, all.extractLsb' 32 64)

/-- The command the decoder reads from a row of the opcode table. -/
def decodeTableWord (nbits w : Nat) : Option Instr :=
  match decode (transactionOf nbits w).1 (transactionOf nbits w).2 with
  | .ok i => some i
  | .error _ => none

end Sys2Proof
end

