-- ==== Sys2Proof/Machine/Transaction.lean ====
section
/-! DEFINITION. What a step does around a command's meaning: the host's next action is taken from the list of those
still to come (log 6); a reset, an illegal word and an idle step are whole steps of their own. -/

namespace Sys2Proof.Machine

/-- The state in which the host's first action has been taken and `rest` is still to come. -/
def State.taken (s : State) (rest : List HostAction) : State := { s with host := rest }

/-- A `Reset` step: every piece of state at its reset value, the build and the host's further actions as they were
(70_reset_and_hazards.md R210, R211). A reset is no transaction and has no answer (log 8). -/
def resetStep (s : State) (rest : List HostAction) : State := (State.resetOf s.build).taken rest

/-- A step in which the host issues nothing: the engine waits (00_scope.md R15, 60_exceptions.md R200; log 7). -/
def idleStep (s : State) : State := { s with answer := none }

/-- A transaction whose command word is illegal (60_exceptions.md R182). -/
def illegalStep (s : State) : State := raise .illegalCommand s

/-- The host action that issues the transaction numbered `w` (log 6). -/
def tableAction (nbits w : Nat) : HostAction := .issue (transactionOf nbits w).1 (transactionOf nbits w).2

end Sys2Proof.Machine
end

