-- ==== Sys2Proof/Machine/Step.lean ====
section
/-! DEFINITION. One step of the machine: the host's next action (00_scope.md R6, R15). -/

namespace Sys2Proof.Machine

/-- One step: a reset, a whole command from decode to answer, or waiting. The engine has no program counter and
fetches nothing (10_state.md R38): the next command is the host's next action. -/
def step (s : State) : Host.Outcome State Fault Refusal :=
  match s.host with
  | [] => .next (idleStep s)
  | .reset :: rest => .next (resetStep s rest)
  | .issue cw wd :: rest =>
    match decode cw wd with
    | .ok i => exec i (s.taken rest)
    | .error _ => .next (illegalStep (s.taken rest))

/-- `s` with the transaction numbered `w` as the host's next action, before those already to come (log 6). -/
def State.withFetchWord (s : State) (nbits w : Nat) : State := s.taken (tableAction nbits w :: s.host)

end Sys2Proof.Machine
end

