-- ==== Sys2Proof/Machine/Checks.lean ====
section
/-! DEFINITION. The tables of 60_exceptions.md R181 to R190 in the spec's own form: which command makes which check,
and which fault comes first. The meanings do not use them: that they agree is a statement. -/

namespace Sys2Proof

/-- The thirteen computing commands, which need `READY = 1` (10_state.md R32, 60_exceptions.md R184). -/
def Instr.isComputing (i : Instr) : Bool :=
  match i with
  | .kappa | .cpmix | .lrot | .lreloc | .nlcomb | .cinj | .round | .perm | .absb | .absf _ | .sqz | .red
  | .recover => true
  | .init | .wrcr _ _ | .rdcr _ | .ldk _ _ _ | .ldsh _ _ _ _ | .rdsh _ _ _ | .xorl _ _ _ | .rdl _ _ | .rdrot _ _
  | .rdrc _ | .wrbuf _ _ | .wrbb _ _ | .rdbuf _ | .rddig _ | .wrdig _ _ | .rdq _ | .wrq _ _ | .rdrec _ => false

/-- The lane a command of format L or RL names (60_exceptions.md R185). -/
def Instr.laneOperands (i : Instr) : Option (Nat × Nat) :=
  match i with
  | .ldk x y _ | .ldsh _ x y _ | .rdsh _ x y | .xorl x y _ | .rdl x y | .rdrot x y => some (x, y)
  | .init | .wrcr _ _ | .rdcr _ | .rdrc _ | .kappa | .cpmix | .lrot | .lreloc | .nlcomb | .cinj | .round | .perm
  | .wrbuf _ _ | .wrbb _ _ | .rdbuf _ | .absb | .absf _ | .sqz | .rddig _ | .wrdig _ _ | .red | .rdq _ | .wrq _ _
  | .recover | .rdrec _ => none

/-- The commands that consume the round index (60_exceptions.md R187). -/
def Instr.consumesRound (i : Instr) : Bool := i == .kappa || i == .cinj || i == .round

/-- The commands of the fixed-width divider and multiplier (60_exceptions.md R188). -/
def Instr.usesReducer (i : Instr) : Bool := i == .red || i == .recover

/-- The read commands (20_memory.md R58). -/
def Instr.isRead (i : Instr) : Bool :=
  match i with
  | .rdl _ _ | .rdsh _ _ _ | .rdrot _ _ | .rdrc _ | .rdbuf _ | .rddig _ | .rdq _ | .rdrec _ | .rdcr _ => true
  | .init | .wrcr _ _ | .ldk _ _ _ | .ldsh _ _ _ _ | .xorl _ _ _ | .kappa | .cpmix | .lrot | .lreloc | .nlcomb | .cinj
  | .round | .perm | .wrbuf _ _ | .wrbb _ _ | .absb | .absf _ | .sqz | .wrdig _ _ | .red | .wrq _ _ | .recover => false

/-- The commands that read the key lane grid: "`KAPPA`, and through it `ROUND`, `PERM`, `ABSB`, `ABSF`, `SQZ`"
(10_state.md R21). -/
def Instr.readsKey (i : Instr) : Bool :=
  match i with
  | .kappa | .round | .perm | .absb | .absf _ | .sqz => true
  | .init | .wrcr _ _ | .rdcr _ | .ldk _ _ _ | .ldsh _ _ _ _ | .rdsh _ _ _ | .xorl _ _ _ | .rdl _ _ | .rdrot _ _
  | .rdrc _ | .cpmix | .lrot | .lreloc | .nlcomb | .cinj | .wrbuf _ _ | .wrbb _ _ | .rdbuf _ | .rddig _ | .wrdig _ _
  | .red | .rdq _ | .wrq _ _ | .recover | .rdrec _ => false

namespace Machine

/-- The causes of IndexRangeError, command by command (60_exceptions.md R186). -/
def outOfRange (i : Instr) (s : State) : Bool :=
  match i with
  | .wrcr n _ => n > 4
  | .rdcr n => n > 8
  | .ldsh r _ _ wd => r ≥ s.build.maxRounds || wd.toNat > 63
  | .rdsh r _ _ => r ≥ s.build.maxRounds
  | .rdrc r => r ≥ s.build.maxRounds
  | .wrbuf n _ | .rdbuf n => n > 24
  | .wrbb off wd => off > 199 || wd.toNat > 255
  | .absf n => n ≥ s.rateBytes
  | .rddig n | .wrdig n _ => n ≥ s.build.digWords
  | .rdq n | .wrq n _ | .rdrec n => n ≥ s.build.redLimbs
  | .init | .ldk _ _ _ | .xorl _ _ _ | .rdl _ _ | .rdrot _ _ | .kappa | .cpmix | .lrot | .lreloc | .nlcomb | .cinj
  | .round | .perm | .absb | .sqz | .red | .recover => false

/-- `x > 4` or `y > 4` for the lane a command names (60_exceptions.md R185). -/
def laneOutOfRange (i : Instr) : Bool :=
  match i.laneOperands with
  | some (x, y) => x > 4 || y > 4
  | none => false

/-- The fault a decoded command raises, "the first failing check in this order", or none (60_exceptions.md R190). -/
def firstFault (i : Instr) (s : State) : Option CommandFault :=
  if i = .init ∧ s.configCheck ≠ 0 then some (.configurationError s.configCheck)
  else if i.isComputing ∧ s.ready = false then some .notReady
  else if laneOutOfRange i then some .laneIndexError
  else if outOfRange i s then some .indexRangeError
  else if i.consumesRound ∧ s.ridx.toNat ≥ s.rounds.toNat then some .roundIndexError
  else if i.usesReducer ∧ s.outBits.toNat > s.build.redMaxBits then some .precisionError
  else none

end Machine

end Sys2Proof
end

