-- ==== Sys2Proof/Safety.lean ====
section
/-! DEFINITION. What holds of every state of a run, in the terms the statements use, and what counts as a safe run. -/

namespace Sys2Proof.Machine

/-- Both byte spaces are in canonical form and hold nothing outside their size (20_memory.md R50). -/
abbrev State.SpacesOk (s : State) : Prop :=
  s.buf.wf ∧ s.buf.within bufBytes ∧ s.dig.wf ∧ s.dig.within s.build.maxOutBytes

/-- The shift table has `MAX_ROUNDS` rows (10_state.md R22). -/
abbrev State.TableOk (s : State) : Prop := s.ksh.length = s.build.maxRounds

/-- "While `READY = 1` the configuration is known legal" (10_state.md R32). -/
abbrev State.ReadyOk (s : State) : Prop := s.ready = true → s.configCheck = 0

/-- The reducer's registers fit their widths and ranges, and a forced value is 0 (10_state.md R27 to R29,
43_reducer.md R169). -/
abbrev State.ReducerOk (s : State) : Prop :=
  s.quot < 2 ^ s.build.redMaxBits ∧ s.rcv < 2 ^ s.build.redMaxBits ∧
  s.flatI.toNat < reducerMod ∧ s.flatF.toNat < s.build.piNum ∧ (s.fz = true → s.flatI = 0 ∧ s.flatF = 0)

/-- The fault record holds one of the codes of 60_exceptions.md R181, with a check number 1 to 6 exactly when it is
ConfigurationError (10_state.md R33, 60_exceptions.md R191). -/
abbrev State.RecordOk (s : State) : Prop :=
  s.lastErr.toNat ≤ 7 ∧ s.errInfo.toNat ≤ 6 ∧ (s.errInfo ≠ 0 ↔ s.lastErr = 2)

/-- The invariant of the machine. -/
abbrev State.Inv (s : State) : Prop :=
  s.build.Legal ∧ s.SpacesOk ∧ s.TableOk ∧ s.ReadyOk ∧ s.ReducerOk ∧ s.RecordOk

/-- The command `i` issued `n` times in a row. -/
def repeatCommand (i : Instr) : Nat → State → Result
  | 0, s => .next s
  | n + 1, s =>
    match repeatCommand i n s with
    | .next t => exec i t
    | .fault r => .fault r
    | .refused r => .refused r

/-- A safe outcome: the machine goes on, in a state that keeps the invariant. By 00_scope.md R15 every step is one. -/
def SafeOutcome (r : Result) : Prop := ∃ t, r = .next t ∧ t.Inv

end Sys2Proof.Machine
end

