-- ==== Sys2Proof/Certificates/Slice0/Obligations.lean ====
section
/-! DEFINITION. The statements about the machine, for the provers. A next state is given by naming the fields a command
writes and copying every other field from the state before, so every such statement is a frame as well. -/

open Sys2Proof Sys2Proof.Machine

/-! ### Encoding (30_encoding.md) -/

/-- Decoding an encoded well-formed command gives it back, with every operand at every value (R71 to R74). -/
def Obligations.DecodeOfEncode : Prop :=
  ∀ i : Instr, i.wellFormed = true → decode (encode i).1 (encode i).2 = .ok i

/-- The other direction: what decodes is well formed, and encodes to the same word (and datum, where used). -/
def Obligations.EncodeOfDecode : Prop :=
  ∀ (cw : CommandWord) (wd : Datum) (i : Instr), decode cw wd = .ok i →
    i.wellFormed = true ∧ (encode i).1 = cw ∧ (i.usesDatum = true → (encode i).2 = wd)

/-- R76: every word is exactly one row of the table, and then it is that row's command, or it is illegal and matches
none. That decoding depends on no state is in the type of `decode`. -/
def Obligations.DecodeMatchesExactlyOneRow : Prop :=
  ∀ (cw : CommandWord) (wd : Datum),
    (∀ i, decode cw wd = .ok i →
      ∃ row ∈ encodingRows, cw &&& row.2 = row.1 ∧ row.1 = BitVec.ofNat 32 i.opcode <<< 24 ∧
        ∀ other ∈ encodingRows, cw &&& other.2 = other.1 → other = row) ∧
    (∀ e, decode cw wd = .error e → ∀ row ∈ encodingRows, cw &&& row.2 ≠ row.1)

/-- Words written out from the encodings of R74 and 95_test_vectors.md section 3, one or more of each family. -/
def Obligations.SampleWordsDecode : Prop :=
  decode 0x01000000 0 = .ok .init ∧ decode 0x02030000 0x200 = .ok (.wrcr 3 0x200) ∧
  decode 0x05170032 17 = .ok (.ldsh 23 3 2 17) ∧ decode 0x08000077 0 = .ok (.rdl 7 7) ∧
  decode 0x17000000 0 = .ok .perm ∧ decode 0x24870000 0 = .ok (.absf 135) ∧
  decode 0x34070000 0 = .ok (.rdrec 7) ∧ decode 0x00000000 0 = .error .unassignedOpcode ∧
  decode 0x08000048 0 = .error .reservedBits ∧ decode 0x17010000 0 = .error .reservedBits

/-! ### The step -/

/-- A step runs the decoded command, on the state in which the host's action has been taken; a transaction placed by
`withFetchWord` runs on the very state it was placed in (log 6). -/
def Obligations.StepRunsDecodedCommand : Prop :=
  (∀ (s : State) cw wd rest i, s.host = .issue cw wd :: rest → decode cw wd = .ok i → i.wellFormed = true →
    step s = exec i { s with host := rest }) ∧
  (∀ (s : State) nbits w i, decodeTableWord nbits w = some i → step (s.withFetchWord nbits w) = exec i s)

/-- R75, R182: an illegal word answers IllegalCommand in every state and changes only the answer, `LASTERR` and
`ERRINFO`; which words are illegal for their opcode. That `READY` stays for a word with the opcode of `INIT` is the
reading of log 9. -/
def Obligations.IllegalWordChangesOnlyTheRecord : Prop :=
  (∀ (s : State) cw wd rest e, s.host = .issue cw wd :: rest → decode cw wd = .error e →
    step s = .next { s with host := rest, answer := some ⟨0x01, 0⟩, lastErr := 0x01, errInfo := 0 }) ∧
  (∀ (cw : CommandWord) wd, decode cw wd = .error .unassignedOpcode ↔
    (opcOf cw = 0 ∨ (0x0B ≤ opcOf cw ∧ opcOf cw ≤ 0x0F) ∨ (0x18 ≤ opcOf cw ∧ opcOf cw ≤ 0x1F) ∨
      (0x28 ≤ opcOf cw ∧ opcOf cw ≤ 0x2F) ∨ 0x35 ≤ opcOf cw))

/-- R40, R210: a reset puts every piece of state at the value of the table, leaves the ROMs, and `State.reset` is the
same state of the reference build. -/
def Obligations.ResetRestoresEveryRegister : Prop :=
  let atReset (t : State) : Prop :=
    (∀ x y : Fin 5, t.a[x][y] = 0 ∧ t.k[x][y] = 0) ∧ t.ksh.length = t.build.maxRounds ∧
    (∀ row ∈ t.ksh, ∀ x y : Fin 5, row[x][y] = 0) ∧ (∀ off, t.buf.read off = 0 ∧ t.dig.read off = 0) ∧
    t.quot = 0 ∧ t.rcv = 0 ∧ t.flatI = 0 ∧ t.flatF = 0 ∧ t.fz = false ∧ t.rounds = 24 ∧ t.rateBits = 1088 ∧
    t.capBits = 512 ∧ t.outBits = 256 ∧ t.ridx = 0 ∧ t.ready = false ∧ t.lastErr = 0 ∧ t.errInfo = 0
  (∀ (s : State) rest, s.host = .reset :: rest →
    ∃ t, step s = .next t ∧ atReset t ∧ t.build = s.build ∧ t.host = rest) ∧
  atReset State.reset

/-- The state after reset meets the invariant. -/
def Obligations.ResetMeetsInvariant : Prop :=
  State.reset.Inv ∧ ∀ b : Params, b.Legal → (State.resetOf b).Inv

/-- Every step keeps the invariant, from every state that meets it: canonical and bounded byte spaces, a shift table of
`MAX_ROUNDS` rows, `READY = 1` only with a legal configuration, reducer registers in range, a legal fault record. -/
def Obligations.StepKeepsInvariant : Prop :=
  ∀ s t : State, s.Inv → step s = .next t → t.Inv

/-- "never mutated": no step changes the ROMs or any other implementation parameter, and a step takes exactly the
host's next action. -/
def Obligations.StepKeepsBuild : Prop :=
  ∀ s t : State, step s = .next t → t.build = s.build ∧ t.host = s.host.tail

/-- R15, R70: every transaction, in every state, is answered, with one of the eight codes, and `RD = 0` for a fault. -/
def Obligations.EveryTransactionIsAnswered : Prop :=
  ∀ (s : State) cw wd rest, s.host = .issue cw wd :: rest →
    ∃ t a, step s = .next t ∧ t.answer = some a ∧ t.host = rest ∧ a.st.toNat ≤ 7 ∧ (a.st ≠ 0 → a.rd = 0)

/-! ### Faults (60_exceptions.md) -/

/-- R191: what a fault writes, and that a command that completes leaves the record. (An illegal word with the
opcode of `INIT`, log 9, is left to `IllegalWordChangesOnlyTheRecord`.) -/
def Obligations.FaultEntry : Prop :=
  ∀ (s t : State) cw wd rest a, s.host = .issue cw wd :: rest → step s = .next t → t.answer = some a →
    (a.st ≠ 0 → a.rd = 0 ∧
      t = { s with host := rest, answer := some a, lastErr := a.st, errInfo := t.errInfo, ready := t.ready }) ∧
    (a.st ≠ 0 → a.st ≠ 2 → t.errInfo = 0) ∧
    (a.st = 2 → decode cw wd = .ok .init ∧ t.ready = false ∧ s.configCheck ≠ 0 ∧ t.errInfo.toNat = s.configCheck) ∧
    (a.st ≠ 0 → decode cw wd = .ok .init → t.ready = false) ∧
    (a.st ≠ 0 → opcOf cw ≠ 0x01 → t.ready = s.ready) ∧
    (a.st = 0 → t.lastErr = s.lastErr ∧ t.errInfo = s.errInfo)

/-- R190: which fault comes first, for every command in every state; a command none of whose checks fails
completes. An illegal word is refused before anything else is looked at. -/
def Obligations.FaultPriority : Prop :=
  (∀ (s : State) cw wd rest e, s.host = .issue cw wd :: rest → decode cw wd = .error e →
    ∃ t, step s = .next t ∧ t.answer = some ⟨0x01, 0⟩) ∧
  (∀ (i : Instr) (s : State) f, firstFault i s = some f → exec i s = .next (raise f s)) ∧
  (∀ (i : Instr) (s : State), firstFault i s = none →
    ∃ t rd, exec i s = .next t ∧ t.answer = some ⟨0x00, rd⟩)

/-- R32, R42: `READY` changes only by `INIT` and by `WRCR` to a configuration register, `FZ` only by `RED` and
`INIT`. -/
def Obligations.StatusBitsHaveTheirWriters : Prop :=
  ∀ (i : Instr) (s t : State), exec i s = .next t →
    (t.ready ≠ s.ready → i = .init ∨ ∃ n wd, i = .wrcr n wd ∧ n ≤ 3) ∧
    (t.fz ≠ s.fz → i = .red ∨ i = .init)

/-- R58: a read command that completes changes no state, and answers the same when issued again. -/
def Obligations.ReadsHaveNoSideEffect : Prop :=
  ∀ (i : Instr) (s t : State) rd, i.isRead = true → exec i s = .next t → t.answer = some ⟨0x00, rd⟩ →
    t = { s with answer := some ⟨0x00, rd⟩ } ∧ exec i t = .next t

/-! ### State access commands (40_state_access.md) -/

/-- R90: what a passing and a failing `INIT` leave. -/
def Obligations.InitBeginsComputation : Prop :=
  (∀ wd, decode 0x01000000 wd = .ok .init) ∧
  (∀ s : State, s.configCheck = 0 → ∃ t, exec .init s = .next t ∧
    t = { s with
      a := t.a, k := t.k, buf := t.buf, dig := t.dig, quot := 0, rcv := 0, flatI := 0, flatF := 0, fz := false,
      ridx := 0, ready := true, answer := some ⟨0x00, 0⟩ } ∧
    (∀ x y : Fin 5, t.a[x][y] = 0 ∧ t.k[x][y] = 0) ∧ ∀ off, t.buf.read off = 0 ∧ t.dig.read off = 0) ∧
  (∀ s : State, s.configCheck ≠ 0 → exec .init s = .next
    { s with ready := false, lastErr := 0x02, errInfo := BitVec.ofNat 8 s.configCheck, answer := some ⟨0x02, 0⟩ })

/-- R91: the number of the first test that fails, on unbounded integers, or 0. -/
def Obligations.ConfigCheckIsFirstFailure : Prop :=
  ∀ (b : Params) (rounds rate cap out : Nat),
    let fails : List Prop :=
      [rate + cap ≠ 1600, out = 0, rounds = 0, rounds > b.maxRounds, rate = 0 ∨ rate % 8 ≠ 0,
        out % 8 ≠ 0 ∨ out > b.maxOutBits]
    let e := configCheck b rounds rate cap out
    e ≤ 6 ∧ (e = 0 ↔ ∀ p ∈ fails, ¬p) ∧
    ∀ n, (h : n < fails.length) → (e = n + 1 ↔ fails[n] ∧ ∀ p ∈ fails.take n, ¬p)

/-- R92: the register written, and `READY`. -/
def Obligations.WriteControlRegister : Prop :=
  (∀ (n : BitVec 8) wd, decode (0x02#8 ++ n ++ 0#16) wd = .ok (.wrcr n.toNat wd)) ∧
  (∀ (s : State) n wd, n ≤ 4 → ∃ t, exec (.wrcr n wd) s = .next t ∧
    t = { s with
      rounds := if n = 0 then wd else s.rounds, rateBits := if n = 1 then wd else s.rateBits,
      capBits := if n = 2 then wd else s.capBits, outBits := if n = 3 then wd else s.outBits,
      ridx := if n = 4 then wd else s.ridx, ready := if n ≤ 3 then false else s.ready,
      answer := some ⟨0x00, 0⟩ }) ∧
  (∀ (s : State) n wd, 5 ≤ n → exec (.wrcr n wd) s = .next (raise .indexRangeError s))

/-- R93, R36: the register read. `STATUS` and `LIMITS` field by field are `StatusAndLimitsLayout`. -/
def Obligations.ReadControlRegister : Prop :=
  (∀ (n : BitVec 8) wd, decode (0x03#8 ++ n ++ 0#16) wd = .ok (.rdcr n.toNat)) ∧
  (∀ (s : State) n, n ≤ 8 → ∃ rd, exec (.rdcr n) s = .next { s with answer := some ⟨0x00, rd⟩ } ∧
    (n = 0 → rd = s.rounds) ∧ (n = 1 → rd = s.rateBits) ∧ (n = 2 → rd = s.capBits) ∧ (n = 3 → rd = s.outBits) ∧
    (n = 4 → rd = s.ridx) ∧ (n = 5 → rd = s.statusWord) ∧ (n = 6 → rd.toNat = s.flatI.toNat) ∧
    (n = 7 → rd.toNat = s.flatF.toNat) ∧ (n = 8 → rd = limitsWord s.build)) ∧
  (∀ (s : State) n, 9 ≤ n → exec (.rdcr n) s = .next (raise .indexRangeError s))

/-- R34, R35: `STATUS` and `LIMITS` field by field (for a build whose parameters fit the fields of `LIMITS`), both
readable by number and neither writable. -/
def Obligations.StatusAndLimitsLayout : Prop :=
  (∀ s : State,
    s.statusWord.getLsbD 0 = s.ready ∧ s.statusWord.getLsbD 1 = s.fz ∧ s.statusWord.extractLsb' 2 6 = 0 ∧
    s.statusWord.extractLsb' 8 8 = s.lastErr ∧ s.statusWord.extractLsb' 16 8 = s.errInfo ∧
    s.statusWord.extractLsb' 24 40 = 0) ∧
  (∀ b : Params, b.maxRounds < 2 ^ 8 → b.maxOutBits < 2 ^ 16 → b.redMaxBits < 2 ^ 16 →
    ((limitsWord b).extractLsb' 0 8).toNat = b.maxRounds ∧ (limitsWord b).extractLsb' 8 8 = 0 ∧
    ((limitsWord b).extractLsb' 16 16).toNat = b.maxOutBits ∧
    ((limitsWord b).extractLsb' 32 16).toNat = b.redMaxBits ∧ (limitsWord b).extractLsb' 48 16 = 0) ∧
  limitsWord referenceBuild = 0x0000020008000018 ∧
  (∀ s : State, exec (.rdcr 5) s = .next { s with answer := some ⟨0x00, s.statusWord⟩ } ∧
    exec (.rdcr 8) s = .next { s with answer := some ⟨0x00, limitsWord s.build⟩ } ∧
    ∀ wd, exec (.wrcr 5 wd) s = .next (raise .indexRangeError s) ∧
      exec (.wrcr 8 wd) s = .next (raise .indexRangeError s))

/-- R94: one key lane is overwritten. -/
def Obligations.LoadKeyLane : Prop :=
  (∀ (x y : BitVec 3) wd, decode (0x04#8 ++ 0#17 ++ x ++ 0#1 ++ y) wd = .ok (.ldk x.toNat y.toNat wd)) ∧
  (∀ (s : State) (x y : Fin 5) wd, ∃ t, exec (.ldk x y wd) s = .next t ∧
    t = { s with k := t.k, answer := some ⟨0x00, 0⟩ } ∧
    ∀ x' y' : Fin 5, t.k[x'][y'] = if x' = x ∧ y' = y then wd else s.k[x'][y']) ∧
  (∀ (s : State) x y wd, 4 < x ∨ 4 < y → exec (.ldk x y wd) s = .next (raise .laneIndexError s))

/-- R95: one entry of the shift table is written, when the lane, the round and the value are in range. -/
def Obligations.LoadShiftEntry : Prop :=
  (∀ (r : BitVec 8) (x y : BitVec 3) wd,
    decode (0x05#8 ++ r ++ 0#9 ++ x ++ 0#1 ++ y) wd = .ok (.ldsh r.toNat x.toNat y.toNat wd)) ∧
  (∀ (s : State) r (x y : Fin 5) (wd : Datum), s.TableOk → r < s.build.maxRounds → wd.toNat ≤ 63 →
    ∃ t, exec (.ldsh r x y wd) s = .next t ∧ t = { s with ksh := t.ksh, answer := some ⟨0x00, 0⟩ } ∧ t.TableOk ∧
      ∀ r' (x' y' : Fin 5), ((t.shiftRow r')[x'][y']).toNat =
        if r' = r ∧ x' = x ∧ y' = y then wd.toNat else ((s.shiftRow r')[x'][y']).toNat) ∧
  (∀ (s : State) r x y wd, 4 < x ∨ 4 < y → exec (.ldsh r x y wd) s = .next (raise .laneIndexError s)) ∧
  (∀ (s : State) r x y (wd : Datum), x ≤ 4 → y ≤ 4 → (s.build.maxRounds ≤ r ∨ 63 < wd.toNat) →
    exec (.ldsh r x y wd) s = .next (raise .indexRangeError s))

/-- R96: one entry of the shift table is read, zero-extended. -/
def Obligations.ReadShiftEntry : Prop :=
  (∀ (r : BitVec 8) (x y : BitVec 3) wd,
    decode (0x06#8 ++ r ++ 0#9 ++ x ++ 0#1 ++ y) wd = .ok (.rdsh r.toNat x.toNat y.toNat)) ∧
  (∀ (s : State) r (x y : Fin 5), r < s.build.maxRounds →
    ∃ rd, exec (.rdsh r x y) s = .next { s with answer := some ⟨0x00, rd⟩ } ∧
      ∀ row, s.ksh[r]? = some row → rd.toNat = (row[x][y]).toNat) ∧
  (∀ (s : State) r x y, 4 < x ∨ 4 < y → exec (.rdsh r x y) s = .next (raise .laneIndexError s)) ∧
  (∀ (s : State) r x y, x ≤ 4 → y ≤ 4 → s.build.maxRounds ≤ r →
    exec (.rdsh r x y) s = .next (raise .indexRangeError s))

/-- R97: XOR into one lane; issued twice with the same datum it restores the grid. -/
def Obligations.XorIntoLane : Prop :=
  (∀ (x y : BitVec 3) wd, decode (0x07#8 ++ 0#17 ++ x ++ 0#1 ++ y) wd = .ok (.xorl x.toNat y.toNat wd)) ∧
  (∀ (s : State) (x y : Fin 5) wd, ∃ t, exec (.xorl x y wd) s = .next t ∧
    t = { s with a := t.a, answer := some ⟨0x00, 0⟩ } ∧
    (∀ x' y' : Fin 5, t.a[x'][y'] = if x' = x ∧ y' = y then s.a[x][y] ^^^ wd else s.a[x'][y']) ∧
    exec (.xorl x y wd) t = .next { s with answer := some ⟨0x00, 0⟩ }) ∧
  (∀ (s : State) x y wd, 4 < x ∨ 4 < y → exec (.xorl x y wd) s = .next (raise .laneIndexError s))

/-- R98: read one lane. -/
def Obligations.ReadLane : Prop :=
  (∀ (x y : BitVec 3) wd, decode (0x08#8 ++ 0#17 ++ x ++ 0#1 ++ y) wd = .ok (.rdl x.toNat y.toNat)) ∧
  (∀ (s : State) (x y : Fin 5), exec (.rdl x y) s = .next { s with answer := some ⟨0x00, s.a[x][y]⟩ }) ∧
  (∀ (s : State) x y, 4 < x ∨ 4 < y → exec (.rdl x y) s = .next (raise .laneIndexError s))

/-- R99, R100: read the two ROMs. -/
def Obligations.ReadRoms : Prop :=
  (∀ (x y : BitVec 3) wd, decode (0x09#8 ++ 0#17 ++ x ++ 0#1 ++ y) wd = .ok (.rdrot x.toNat y.toNat)) ∧
  (∀ (r : BitVec 8) wd, decode (0x0A#8 ++ r ++ 0#16) wd = .ok (.rdrc r.toNat)) ∧
  (∀ (s : State) (x y : Fin 5), ∃ rd, exec (.rdrot x y) s = .next { s with answer := some ⟨0x00, rd⟩ } ∧
    rd.toNat = (s.build.rot[x][y]).toNat) ∧
  (∀ (s : State) x y, 4 < x ∨ 4 < y → exec (.rdrot x y) s = .next (raise .laneIndexError s)) ∧
  (∀ (s : State) r, (h : r < s.build.rc.length) →
    exec (.rdrc r) s = .next { s with answer := some ⟨0x00, s.build.rc[r]⟩ }) ∧
  (∀ (s : State) r, s.build.maxRounds ≤ r → exec (.rdrc r) s = .next (raise .indexRangeError s))

/-! ### Lanes and the byte view (00_scope.md) -/

/-- R12: the lane operations as integer laws, and rotation bit by bit. -/
def Obligations.LaneOperationLaws : Prop :=
  ∀ (v : Lane) (n : Nat), n < 64 →
    (rotl64 v n).toNat = (if n = 0 then v.toNat else v.toNat * 2 ^ n % 2 ^ 64 + v.toNat / 2 ^ (64 - n)) ∧
    (∀ i, i < 64 → (rotl64 v n).getLsbD ((i + n) % 64) = v.getLsbD i) ∧
    (shr64 v n).toNat = v.toNat / 2 ^ n ∧ (not64 v).toNat = 2 ^ 64 - 1 - v.toNat

/-- R13, R14: the lane order, and the bytes of the byte view, under both values of `LANE_ORDER`. -/
def Obligations.LaneOrderAndByteView : Prop :=
  (∀ x y : Fin 5, lanePos .xOuter (5 * x.val + y.val) = (x, y) ∧ lanePos .yOuter (5 * y.val + x.val) = (x, y)) ∧
  (∀ (o : LaneOrder) (a : Grid) (i k : Nat), i < 25 → k < 8 →
    stateByte o a (8 * i + k) = a[(lanePos o i).1][(lanePos o i).2].extractLsb' (8 * k) 8) ∧
  (∀ (o : LaneOrder) (a : Grid) (j j' : Nat) (b : Byte), j < 200 → j' < 200 →
    stateByte o (xorStateByte o j b a) j' = if j' = j then stateByte o a j ^^^ b else stateByte o a j') ∧
  (∀ (o : LaneOrder) (a a' : Grid), (∀ j, j < 200 → stateByte o a j = stateByte o a' j) → a = a')

/-! ### Permutation commands (41_permutation.md) -/

/-- R111: each lane is XORed with its key lane shifted right, logically, by its entry of row `RIDX`. -/
def Obligations.KappaXorsShiftedKey : Prop :=
  (∀ wd, decode 0x10000000 wd = .ok .kappa) ∧
  (∀ s : State, s.ready = true → s.ridx.toNat < s.rounds.toNat →
    ∃ t, exec .kappa s = .next t ∧ t = { s with a := t.a, answer := some ⟨0x00, 0⟩ } ∧
      ∀ x y : Fin 5, (t.a[x][y]).toNat =
        (s.a[x][y]).toNat ^^^ ((s.k[x][y]).toNat / 2 ^ ((s.shiftRow s.ridx.toNat)[x][y]).toNat)) ∧
  (∀ s : State, s.ready = false → exec .kappa s = .next (raise .notReady s)) ∧
  (∀ s : State, s.ready = true → s.rounds.toNat ≤ s.ridx.toNat →
    exec .kappa s = .next (raise .roundIndexError s))

/-- R112: column-parity mixing. -/
def Obligations.CpmixMixesColumnParities : Prop :=
  (∀ wd, decode 0x11000000 wd = .ok .cpmix) ∧
  (∀ cw wd, opcOf cw = 0x11 → cw ≠ 0x11000000 → decode cw wd = .error .reservedBits) ∧
  (∀ s : State, s.ready = true → ∃ t, exec .cpmix s = .next t ∧
    t = { s with a := t.a, answer := some ⟨0x00, 0⟩ } ∧
    ∃ c d : Fin 5 → Lane,
      (∀ x : Fin 5, c x = (List.finRange 5).foldl (fun acc y => acc ^^^ s.a[x][y]) 0) ∧
      (∀ x : Fin 5, d x = c (x + 4) ^^^ rotl64 (c (x + 1)) 1) ∧
      ∀ x y : Fin 5, t.a[x][y] = s.a[x][y] ^^^ d x) ∧
  (∀ s : State, s.ready = false → exec .cpmix s = .next (raise .notReady s))

/-- R113: each lane rotates left by its own offset. -/
def Obligations.LrotRotatesEachLane : Prop :=
  (∀ wd, decode 0x12000000 wd = .ok .lrot) ∧
  (∀ cw wd, opcOf cw = 0x12 → cw ≠ 0x12000000 → decode cw wd = .error .reservedBits) ∧
  (∀ s : State, s.ready = true → ∃ t, exec .lrot s = .next t ∧
    t = { s with a := t.a, answer := some ⟨0x00, 0⟩ } ∧
    ∀ x y : Fin 5, ∀ i, i < 64 →
      (t.a[x][y]).getLsbD ((i + (s.build.rot[x][y]).toNat) % 64) = (s.a[x][y]).getLsbD i) ∧
  (∀ s : State, s.ready = false → exec .lrot s = .next (raise .notReady s))

/-- R114: the lane at `(x,y)` moves to `((x + 3y) mod 5, x)`. -/
def Obligations.LrelocMovesLanes : Prop :=
  (∀ wd, decode 0x13000000 wd = .ok .lreloc) ∧
  (∀ s : State, s.ready = true → ∃ t, exec .lreloc s = .next t ∧
    t = { s with a := t.a, answer := some ⟨0x00, 0⟩ } ∧ ∀ x y : Fin 5, t.a[x + 3 * y][x] = s.a[x][y]) ∧
  (∀ s : State, s.ready = false → exec .lreloc s = .next (raise .notReady s))

/-- R115: the nonlinear combination, from the grid before the step. -/
def Obligations.NlcombCombinesRow : Prop :=
  (∀ wd, decode 0x14000000 wd = .ok .nlcomb) ∧
  (∀ s : State, s.ready = true → ∃ t, exec .nlcomb s = .next t ∧
    t = { s with a := t.a, answer := some ⟨0x00, 0⟩ } ∧
    ∀ x y : Fin 5, ∀ i, i < 64 → (t.a[x][y]).getLsbD i =
      ((s.a[x][y]).getLsbD i ^^ (!(s.a[x + 1][y]).getLsbD i && (s.a[x + 2][y]).getLsbD i))) ∧
  (∀ s : State, s.ready = false → exec .nlcomb s = .next (raise .notReady s))

/-- R116: the round constant goes into lane `(0,0)` only. -/
def Obligations.CinjInjectsConstant : Prop :=
  (∀ wd, decode 0x15000000 wd = .ok .cinj) ∧
  (∀ s : State, s.ready = true → s.ridx.toNat < s.rounds.toNat →
    ∃ t, exec .cinj s = .next t ∧ t = { s with a := t.a, answer := some ⟨0x00, 0⟩ } ∧
      (∀ rc, s.build.rc[s.ridx.toNat]? = some rc →
        t.a[(0 : Fin 5)][(0 : Fin 5)] = s.a[(0 : Fin 5)][(0 : Fin 5)] ^^^ rc) ∧
      ∀ x y : Fin 5, ¬(x = 0 ∧ y = 0) → t.a[x][y] = s.a[x][y]) ∧
  (∀ s : State, s.ready = false → exec .cinj s = .next (raise .notReady s)) ∧
  (∀ s : State, s.ready = true → s.rounds.toNat ≤ s.ridx.toNat →
    exec .cinj s = .next (raise .roundIndexError s))

/-- R117: `ROUND` is the six single-step commands in order, then the advance of `RIDX`. -/
def Obligations.RoundIsSixStepsThenAdvance : Prop :=
  (∀ wd, decode 0x16000000 wd = .ok .round) ∧
  (∀ s : State, s.ready = true → s.ridx.toNat < s.rounds.toNat →
    ∃ s1 s2 s3 s4 s5 s6 t, exec .kappa s = .next s1 ∧ exec .cpmix s1 = .next s2 ∧ exec .lrot s2 = .next s3 ∧
      exec .lreloc s3 = .next s4 ∧ exec .nlcomb s4 = .next s5 ∧ exec .cinj s5 = .next s6 ∧
      exec .round s = .next t ∧ t = { s6 with ridx := t.ridx } ∧
      t = { s with a := t.a, ridx := t.ridx, answer := some ⟨0x00, 0⟩ } ∧
      t.ridx.toNat = (s.ridx.toNat + 1) % s.rounds.toNat) ∧
  (∀ s : State, s.ready = false → exec .round s = .next (raise .notReady s)) ∧
  (∀ s : State, s.ready = true → s.rounds.toNat ≤ s.ridx.toNat →
    exec .round s = .next (raise .roundIndexError s))

/-- R118: `PERM` is `ROUNDS` times `ROUND` from `RIDX = 0`, leaves `RIDX = 0` and ignores the index it found. -/
def Obligations.PermIsRoundsFromZero : Prop :=
  (∀ wd, decode 0x17000000 wd = .ok .perm) ∧
  (∀ s : State, s.ready = true → s.ReadyOk →
    ∃ t, exec .perm s = .next t ∧ repeatCommand .round s.rounds.toNat { s with ridx := 0 } = .next t ∧
      t = { s with a := t.a, ridx := 0, answer := some ⟨0x00, 0⟩ } ∧
      ∀ v, exec .perm { s with ridx := v } = .next t) ∧
  (∀ s : State, s.ready = false → exec .perm s = .next (raise .notReady s))

/-- R111, R116: `KAPPA` twice, and `CINJ` twice, at one `RIDX` restore the grid; with `K = 0` `KAPPA` changes no lane. -/
def Obligations.KappaAndCinjUndoThemselves : Prop :=
  (∀ s : State, s.ready = true → s.ridx.toNat < s.rounds.toNat →
    repeatCommand .kappa 2 s = .next { s with answer := some ⟨0x00, 0⟩ } ∧
    repeatCommand .cinj 2 s = .next { s with answer := some ⟨0x00, 0⟩ }) ∧
  (∀ s : State, s.ready = true → s.ridx.toNat < s.rounds.toNat → (∀ x y : Fin 5, s.k[x][y] = 0) →
    exec .kappa s = .next { s with answer := some ⟨0x00, 0⟩ })

/-- R114: the relocation has order 24. -/
def Obligations.LrelocHasOrder24 : Prop :=
  (∀ s : State, s.ready = true → repeatCommand .lreloc 24 s = .next { s with answer := some ⟨0x00, 0⟩ }) ∧
  (∀ n, 0 < n → n < 24 → ∃ s t : State, s.ready = true ∧ repeatCommand .lreloc n s = .next t ∧ t.a ≠ s.a)

/-- R120(b), for the five steps whose inverse is lane-wise or row-wise: two states that differ only in their grids and
end in the same state had the same grid. -/
def Obligations.StepsAreInjective : Prop :=
  ∀ (i : Instr), i ∈ [Instr.kappa, .lrot, .lreloc, .nlcomb, .cinj] →
    ∀ (s t : State) (g h : Grid), s.ready = true → (i.consumesRound = true → s.ridx.toNat < s.rounds.toNat) →
      exec i { s with a := g } = .next t → exec i { s with a := h } = .next t → g = h

/-- R120(b), for column-parity mixing. -/
def Obligations.CpmixIsInjective : Prop :=
  ∀ (s t : State) (g h : Grid), s.ready = true →
    exec .cpmix { s with a := g } = .next t → exec .cpmix { s with a := h } = .next t → g = h

/-! ### Sponge commands (42_sponge.md) -/

/-- R130: eight bytes of the block buffer, little-endian, and no other. -/
def Obligations.WriteBlockWord : Prop :=
  (∀ (i : BitVec 8) wd, decode (0x20#8 ++ i ++ 0#16) wd = .ok (.wrbuf i.toNat wd)) ∧
  (∀ (s : State) i (wd : Datum), s.buf.wf → i ≤ 24 → ∃ t, exec (.wrbuf i wd) s = .next t ∧
    t = { s with buf := t.buf, answer := some ⟨0x00, 0⟩ } ∧ t.buf.wf ∧
    (∀ j, j < 8 → t.buf.read (8 * i + j) = wd.extractLsb' (8 * j) 8) ∧
    ∀ off, off < 8 * i ∨ 8 * i + 8 ≤ off → t.buf.read off = s.buf.read off) ∧
  (∀ (s : State) i wd, 24 < i → exec (.wrbuf i wd) s = .next (raise .indexRangeError s))

/-- R131: one byte of the block buffer. -/
def Obligations.WriteBlockByte : Prop :=
  (∀ (off : BitVec 8) wd, decode (0x21#8 ++ off ++ 0#16) wd = .ok (.wrbb off.toNat wd)) ∧
  (∀ (s : State) off (wd : Datum), s.buf.wf → off ≤ 199 → wd.toNat ≤ 255 →
    ∃ t, exec (.wrbb off wd) s = .next t ∧ t = { s with buf := t.buf, answer := some ⟨0x00, 0⟩ } ∧ t.buf.wf ∧
      (t.buf.read off).toNat = wd.toNat ∧ ∀ off', off' ≠ off → t.buf.read off' = s.buf.read off') ∧
  (∀ (s : State) off (wd : Datum), (199 < off ∨ 255 < wd.toNat) →
    exec (.wrbb off wd) s = .next (raise .indexRangeError s))

/-- R132: eight bytes of the block buffer, little-endian. -/
def Obligations.ReadBlockWord : Prop :=
  (∀ (i : BitVec 8) wd, decode (0x22#8 ++ i ++ 0#16) wd = .ok (.rdbuf i.toNat)) ∧
  (∀ (s : State) i, i ≤ 24 → ∃ rd, exec (.rdbuf i) s = .next { s with answer := some ⟨0x00, rd⟩ } ∧
    ∀ j, j < 8 → rd.extractLsb' (8 * j) 8 = s.buf.read (8 * i + j)) ∧
  (∀ (s : State) i, 24 < i → exec (.rdbuf i) s = .next (raise .indexRangeError s))

/-- R134, R135: `ABSB` XORs the first `RATE_BYTES` bytes of `BUF` into the byte view, leaves the capacity, and
permutes. -/
def Obligations.AbsorbFullBlock : Prop :=
  (∀ wd, decode 0x23000000 wd = .ok .absb) ∧
  (∀ s : State, s.ready = true → s.ReadyOk → ∃ (g : Grid) (t : State),
    (∀ j, j < 200 → stateByte s.build.laneOrder g j =
      if j < s.rateBytes then stateByte s.build.laneOrder s.a j ^^^ s.buf.read j
      else stateByte s.build.laneOrder s.a j) ∧
    exec .absb s = .next t ∧ exec .perm { s with a := g } = .next t ∧
    t = { s with a := t.a, ridx := 0, answer := some ⟨0x00, 0⟩ }) ∧
  (∀ s : State, s.ready = false → exec .absb s = .next (raise .notReady s))

/-- 20_memory.md R52: with a rate of whole lanes, absorbing a block is, lane by lane, the XOR of the words `RDBUF`
reads; a rate that cuts a lane touches only that lane's low bytes. -/
def Obligations.AbsorbXorsBufferWords : Prop :=
  (∀ (o : LaneOrder) (a : Grid) (buf : Memory) (rb i : Nat), rb ≤ 200 → rb % 8 = 0 → i < 25 →
    (xorBytes o 0 (buf.bytes 0 rb) a)[(lanePos o i).1][(lanePos o i).2] =
      if i < rb / 8 then a[(lanePos o i).1][(lanePos o i).2] ^^^ buf.readWord i
      else a[(lanePos o i).1][(lanePos o i).2]) ∧
  (∀ (o : LaneOrder) (a : Grid) (buf : Memory) (rb j : Nat), rb ≤ 200 → j < 200 →
    stateByte o (xorBytes o 0 (buf.bytes 0 rb) a) j =
      if j < rb then stateByte o a j ^^^ buf.read j else stateByte o a j)

/-- R133: `0x06`, zeros, `0x80`, the shortest of at least two bytes that fills whole blocks. -/
def Obligations.PaddingIsShortest : Prop :=
  ∀ (rb : Nat) (msg : List Byte), 0 < rb →
    ∃ p, 2 ≤ p ∧ pad rb msg = msg ++ [0x06] ++ List.replicate (p - 2) 0x00 ++ [0x80] ∧
      (msg.length + p) % rb = 0 ∧ (∀ q, 2 ≤ q → (msg.length + q) % rb = 0 → p ≤ q) ∧
      p = (if 2 ≤ rb - msg.length % rb then rb - msg.length % rb else rb - msg.length % rb + rb)

/-- R136, R133: `ABSF n` absorbs, block by block, the padding of the `n` bytes at the start of `BUF`, one block or two,
and leaves `BUF` as it was; bytes of `BUF` from `n` on do not matter. -/
def Obligations.AbsorbFinalBlock : Prop :=
  (∀ (n : BitVec 8) wd, decode (0x24#8 ++ n ++ 0#16) wd = .ok (.absf n.toNat)) ∧
  (∀ (s : State) n, s.ready = true → s.ReadyOk → n < s.rateBytes →
    let padded := pad s.rateBytes (s.buf.bytes 0 n)
    ∃ t, exec (.absf n) s = .next t ∧ t = { s with a := t.a, ridx := 0, answer := some ⟨0x00, 0⟩ } ∧
      (n + 2 ≤ s.rateBytes → padded.length = s.rateBytes ∧
        ∀ m : Memory, (∀ j, j < s.rateBytes → m.read j = padded.getD j 0) →
          exec .absb { s with buf := m } = .next { t with buf := m }) ∧
      (n + 1 = s.rateBytes → padded.length = 2 * s.rateBytes ∧
        ∀ m m' : Memory, (∀ j, j < s.rateBytes → m.read j = padded.getD j 0) →
          (∀ j, j < s.rateBytes → m'.read j = padded.getD (s.rateBytes + j) 0) →
          ∃ u, exec .absb { s with buf := m } = .next u ∧
            exec .absb { u with buf := m' } = .next { t with buf := m' })) ∧
  (∀ (s : State) n, s.ready = false → exec (.absf n) s = .next (raise .notReady s)) ∧
  (∀ (s : State) n, s.ready = true → s.rateBytes ≤ n → exec (.absf n) s = .next (raise .indexRangeError s))

/-- R137, R138: digest byte `j` is byte `j mod RATE_BYTES` of the grid after `j div RATE_BYTES` permutations; the rest of
`DIG` is zero; `ceil(OUT_BYTES/RATE_BYTES) - 1` permutations run, none after the last extraction. -/
def Obligations.SqueezeFillsDigest : Prop :=
  (∀ wd, decode 0x25000000 wd = .ok .sqz) ∧
  (∀ s : State, s.ready = true → s.ReadyOk → ∃ t, exec .sqz s = .next t ∧ t.dig.wf ∧
    (∀ j, j < s.outBytes → ∃ u, repeatCommand .perm (j / s.rateBytes) s = .next u ∧
      t.dig.read j = stateByte s.build.laneOrder u.a (j % s.rateBytes)) ∧
    (∀ j, s.outBytes ≤ j → t.dig.read j = 0) ∧
    (∃ u, repeatCommand .perm ((s.outBytes + s.rateBytes - 1) / s.rateBytes - 1) s = .next u ∧
      t = { u with dig := t.dig, answer := some ⟨0x00, 0⟩ }) ∧
    t = { s with a := t.a, ridx := t.ridx, dig := t.dig, answer := some ⟨0x00, 0⟩ }) ∧
  (∀ s : State, s.ready = false → exec .sqz s = .next (raise .notReady s))

/-- R142(d): a shorter digest is a prefix of a longer one squeezed from the same state. -/
def Obligations.ShorterDigestIsPrefix : Prop :=
  ∀ (s : State) (longer : Datum), s.ready = true → s.ReadyOk → ({ s with outBits := longer } : State).ReadyOk →
    s.outBits.toNat ≤ longer.toNat →
    ∃ t u, exec .sqz s = .next t ∧ exec .sqz { s with outBits := longer } = .next u ∧
      ∀ j, j < s.outBytes → t.dig.read j = u.dig.read j

/-- R139: eight bytes of the digest register, little-endian. -/
def Obligations.ReadDigestWord : Prop :=
  (∀ (i : BitVec 8) wd, decode (0x26#8 ++ i ++ 0#16) wd = .ok (.rddig i.toNat)) ∧
  (∀ (s : State) i, i < s.build.maxOutBits / 64 → ∃ rd, exec (.rddig i) s = .next { s with answer := some ⟨0x00, rd⟩ } ∧
    ∀ j, j < 8 → rd.extractLsb' (8 * j) 8 = s.dig.read (8 * i + j)) ∧
  (∀ (s : State) i, s.build.maxOutBits / 64 ≤ i → exec (.rddig i) s = .next (raise .indexRangeError s))

/-- R140: eight bytes of the digest register, little-endian, and no other. -/
def Obligations.WriteDigestWord : Prop :=
  (∀ (i : BitVec 8) wd, decode (0x27#8 ++ i ++ 0#16) wd = .ok (.wrdig i.toNat wd)) ∧
  (∀ (s : State) i (wd : Datum), s.dig.wf → i < s.build.maxOutBits / 64 → ∃ t, exec (.wrdig i wd) s = .next t ∧
    t = { s with dig := t.dig, answer := some ⟨0x00, 0⟩ } ∧ t.dig.wf ∧
    (∀ j, j < 8 → t.dig.read (8 * i + j) = wd.extractLsb' (8 * j) 8) ∧
    ∀ off, off < 8 * i ∨ 8 * i + 8 ≤ off → t.dig.read off = s.dig.read off) ∧
  (∀ (s : State) i wd, s.build.maxOutBits / 64 ≤ i → exec (.wrdig i wd) s = .next (raise .indexRangeError s))

/-! ### Reducer (43_reducer.md) -/

/-- 20_memory.md R54: `H` is the big-endian integer of the first `n` digest bytes: it has `8n` bits, and digest byte `j`
stands at weight `256^(n-1-j)`. -/
def Obligations.DigestIntegerIsBigEndian : Prop :=
  ∀ (dig : Memory) (n : Nat), digestInteger dig n < 2 ^ (8 * n) ∧
    ∀ j, j < n → digestInteger dig n / 256 ^ (n - 1 - j) % 256 = (dig.read j).toNat

/-- R161, R162, R169: exact division of `H` by π, the two-sided strict zero-forcing test, the four fields written, and
their ranges. -/
def Obligations.ReduceDividesByPi : Prop :=
  (∀ wd, decode 0x30000000 wd = .ok .red) ∧
  (∀ s : State, s.build.Legal → s.ready = true → s.outBits.toNat ≤ s.build.redMaxBits →
    let H := digestInteger s.dig (s.outBits.toNat / 8)
    ∃ t R, exec .red s = .next t ∧
      t = { s with quot := t.quot, flatI := t.flatI, flatF := t.flatF, fz := t.fz, answer := some ⟨0x00, 0⟩ } ∧
      H * s.build.piDen = t.quot * s.build.piNum + R ∧ R < s.build.piNum ∧ t.quot < 2 ^ s.build.redMaxBits ∧
      (t.fz = true ↔ R * 10 ^ 10 < s.build.piNum ∨ (s.build.piNum - R) * 10 ^ 10 < s.build.piNum) ∧
      (t.fz = true → t.flatI = 0 ∧ t.flatF = 0) ∧
      (t.fz = false → t.flatI.toNat = t.quot % 369 ∧ t.flatF.toNat = R) ∧
      t.flatI.toNat ≤ 368 ∧ t.flatF.toNat < s.build.piNum) ∧
  (∀ s : State, s.ready = false → exec .red s = .next (raise .notReady s)) ∧
  (∀ s : State, s.ready = true → s.build.redMaxBits < s.outBits.toNat →
    exec .red s = .next (raise .precisionError s))

/-- R163, R167: limb `i` of the quotient and of the recovered value. -/
def Obligations.ReadLimbs : Prop :=
  (∀ (i : BitVec 8) wd, decode (0x31#8 ++ i ++ 0#16) wd = .ok (.rdq i.toNat)) ∧
  (∀ (i : BitVec 8) wd, decode (0x34#8 ++ i ++ 0#16) wd = .ok (.rdrec i.toNat)) ∧
  (∀ (s : State) i, i < s.build.redMaxBits / 64 → ∃ q r,
    exec (.rdq i) s = .next { s with answer := some ⟨0x00, q⟩ } ∧
    exec (.rdrec i) s = .next { s with answer := some ⟨0x00, r⟩ } ∧
    ∀ k, k < 64 → q.getLsbD k = s.quot.testBit (64 * i + k) ∧ r.getLsbD k = s.rcv.testBit (64 * i + k)) ∧
  (∀ (s : State) i, s.build.redMaxBits / 64 ≤ i →
    exec (.rdq i) s = .next (raise .indexRangeError s) ∧ exec (.rdrec i) s = .next (raise .indexRangeError s))

/-- R164: limb `i` of the quotient is replaced, the others are not; the quotient keeps its width. -/
def Obligations.WriteQuotientLimb : Prop :=
  (∀ (i : BitVec 8) wd, decode (0x32#8 ++ i ++ 0#16) wd = .ok (.wrq i.toNat wd)) ∧
  (∀ (s : State) i (wd : Datum), s.build.Legal → i < s.build.redMaxBits / 64 → s.quot < 2 ^ s.build.redMaxBits →
    ∃ t, exec (.wrq i wd) s = .next t ∧ t = { s with quot := t.quot, answer := some ⟨0x00, 0⟩ } ∧
      t.quot < 2 ^ s.build.redMaxBits ∧
      ∀ k, t.quot.testBit k =
        if 64 * i ≤ k ∧ k < 64 * i + 64 then wd.getLsbD (k - 64 * i) else s.quot.testBit k) ∧
  (∀ (s : State) i wd, s.build.redMaxBits / 64 ≤ i → exec (.wrq i wd) s = .next (raise .indexRangeError s))

/-- R165, R166: the quotient times π, floor, modulo `2^OUT_BITS`. -/
def Obligations.RecoverMultipliesByPi : Prop :=
  (∀ wd, decode 0x33000000 wd = .ok .recover) ∧
  (∀ s : State, s.build.Legal → s.ready = true → s.outBits.toNat ≤ s.build.redMaxBits →
    ∃ t p, exec .recover s = .next t ∧ t = { s with rcv := t.rcv, answer := some ⟨0x00, 0⟩ } ∧
      p * s.build.piDen ≤ s.quot * s.build.piNum ∧ s.quot * s.build.piNum < (p + 1) * s.build.piDen ∧
      t.rcv < 2 ^ s.outBits.toNat ∧ t.rcv ≡ p [MOD 2 ^ s.outBits.toNat]) ∧
  (∀ s : State, s.ready = false → exec .recover s = .next (raise .notReady s)) ∧
  (∀ s : State, s.ready = true → s.build.redMaxBits < s.outBits.toNat →
    exec .recover s = .next (raise .precisionError s))

/-- R168: what `REC` after `RED` falls short of the digest by, in every legal build; with the reference π, whose
digits are PRESUMED (log 3), by 0 to 4. -/
def Obligations.RecoveryErrorBound : Prop :=
  ∀ s : State, s.build.Legal → s.ready = true → s.outBits.toNat ≤ s.build.redMaxBits →
    let H := digestInteger s.dig (s.outBits.toNat / 8)
    let R := H * s.build.piDen % s.build.piNum
    ∃ t u, exec .red s = .next t ∧ exec .recover t = .next u ∧
      u.rcv + (R + s.build.piDen - 1) / s.build.piDen = H ∧ (u.rcv = H ↔ R = 0) ∧
      (s.build.piNum = 3141592653589793238 → s.build.piDen = 10 ^ 18 →
        H ≤ u.rcv + 4 ∧ (u.rcv = H ↔ H % 1570796326794896619 = 0))

/-! ### Whole-machine rules -/

/-- 10_state.md R21: a command that does not run the kappa step does not read the key lane grid: two states that differ
only in `K` give the same answer and next states that differ at most in `K`. -/
def Obligations.KeyLanesAreNotReadBack : Prop :=
  ∀ (i : Instr) (s : State) (k' : Grid), i.readsKey = false →
    ∃ t t', exec i s = .next t ∧ exec i { s with k := k' } = .next t' ∧ t' = { t with k := t'.k }

/-- 70_reset_and_hazards.md R220: rows of the shift table at or above `ROUNDS` are read by no computing command. -/
def Obligations.UnusedShiftRowsAreNotRead : Prop :=
  ∀ (i : Instr) (s : State) (ksh' : List ShiftRow), i.isComputing = true →
    (∀ r, r < s.rounds.toNat → ({ s with ksh := ksh' } : State).shiftRow r = s.shiftRow r) →
    ∃ t, exec i s = .next t ∧ exec i { s with ksh := ksh' } = .next { t with ksh := ksh' }
end

