-- ==== Sys2Proof/Laws/Encoding.lean ====
section
/-! SUPPORT. The fields of a command word built from its fields (30_encoding.md R71). -/

namespace Sys2Proof

/-- The fields of a word laid out by the pattern of format RL, as bit vectors. -/
theorem fields_of_pattern (o i : BitVec 8) (x y : BitVec 3) :
    let cw : CommandWord := o ++ i ++ 0#8 ++ 0#1 ++ x ++ 0#1 ++ y
    cw.extractLsb' 24 8 = o ∧ cw.extractLsb' 16 8 = i ∧ cw.extractLsb' 4 3 = x ∧ cw.extractLsb' 0 3 = y := by
  refine ⟨?_, ?_, ?_, ?_⟩ <;>
  · ext k hk
    simp only [BitVec.getElem_extractLsb', BitVec.getLsbD_append]
    rcases Nat.lt_or_ge k 4 with h | h <;> interval_cases k <;> simp

theorem opcOf_commandWord {opc : Nat} (ho : opc < 256) (idx x y : Nat) : opcOf (commandWord opc idx x y) = opc := by
  rw [opcOf, commandWord, (fields_of_pattern _ _ _ _).1, BitVec.toNat_ofNat]
  omega

theorem idxOf_commandWord {idx : Nat} (hi : idx < 256) (opc x y : Nat) : idxOf (commandWord opc idx x y) = idx := by
  rw [idxOf, commandWord, (fields_of_pattern _ _ _ _).2.1, BitVec.toNat_ofNat]
  omega

theorem xOf_commandWord {x : Nat} (hx : x < 8) (opc idx y : Nat) : xOf (commandWord opc idx x y) = x := by
  rw [xOf, commandWord, (fields_of_pattern _ _ _ _).2.2.1, BitVec.toNat_ofNat]
  omega

theorem yOf_commandWord {y : Nat} (hy : y < 8) (opc idx x : Nat) : yOf (commandWord opc idx x y) = y := by
  rw [yOf, commandWord, (fields_of_pattern _ _ _ _).2.2.2, BitVec.toNat_ofNat]
  omega

/-- Every opcode fits its field (30_encoding.md R74). -/
theorem Instr.opcode_lt (i : Instr) : i.opcode < 256 := by cases i <;> simp [Instr.opcode]

end Sys2Proof
end

