-- ==== Sys2Proof/Laws/Memory.lean ====
section
/-! SUPPORT. The byte spaces: a read after a write, and the canonical form that every operation keeps. -/

namespace Sys2Proof.Machine

@[simp] theorem Memory.read_nil (a : Nat) : Memory.read [] a = Memory.unlisted := rfl

/-- An address below every listed one reads as unlisted. -/
theorem Memory.read_of_lt_all {m : Memory} {a : Nat} (h : ∀ c ∈ m, a < c.1) : m.read a = Memory.unlisted := by
  induction m with
  | nil => rfl
  | cons c m ih =>
    have hc : a ≠ c.1 := (h c (by simp)).ne
    simp only [Memory.read, if_neg hc]
    exact ih fun d hd => h d (by simp [hd])

/-- The head of a canonical space lies below the rest. -/
theorem Memory.wf_head_lt {c : Host.Cell} {m : Memory} (h : Memory.wf (c :: m)) : ∀ d ∈ m, c.1 < d.1 :=
  (List.pairwise_cons.mp h.1).1

theorem Memory.wf_tail {c : Host.Cell} {m : Memory} (h : Memory.wf (c :: m)) : Memory.wf m :=
  ⟨(List.pairwise_cons.mp h.1).2, fun d hd => h.2 d (by simp [hd])⟩

theorem Memory.wf_nil : Memory.wf [] := ⟨List.Pairwise.nil, by simp⟩

theorem Memory.wf_cons {k : Nat} {b : Byte} {m : Memory} (hb : b ≠ Memory.unlisted) (hlt : ∀ d ∈ m, k < d.1)
    (h : Memory.wf m) : Memory.wf ((k, b) :: m) :=
  ⟨List.pairwise_cons.mpr ⟨hlt, h.1⟩, by
    intro c hc
    rcases List.mem_cons.mp hc with rfl | hc
    · exact hb
    · exact h.2 c hc⟩

/-- What a byte reads as after a write, in a canonical space. -/
theorem Memory.read_write {m : Memory} (h : m.wf) (a : Nat) (v : Byte) (a' : Nat) :
    (m.write a v).read a' = if a' = a then v else m.read a' := by
  induction m with
  | nil => by_cases hv : v = Memory.unlisted <;> simp [Memory.write, Memory.read, hv]
  | cons c m ih =>
    obtain ⟨k, b⟩ := c
    have hlt := Memory.wf_head_lt h
    have ih := ih (Memory.wf_tail h)
    have below : ∀ a, a ≤ k → Memory.read m a = Memory.unlisted := fun a ha =>
      Memory.read_of_lt_all fun d hd => lt_of_le_of_lt ha (hlt d hd)
    rcases lt_trichotomy a k with hak | rfl | hka
    · by_cases hv : v = Memory.unlisted
      · subst hv
        by_cases ha : a' = a
        · subst ha; simp [Memory.write, Memory.read, hak, hak.ne, below a' hak.le]
        · simp [Memory.write, hak, ha]
      · simp [Memory.write, Memory.read, hak, hv]
    · by_cases hv : v = Memory.unlisted
      · by_cases ha : a' = a
        · subst ha; simp [Memory.write, hv, below a' le_rfl]
        · simp [Memory.write, Memory.read, hv, ha]
      · by_cases ha : a' = a <;> simp [Memory.write, Memory.read, hv, ha]
    · have h1 : ¬ a < k := by omega
      have h2 : a ≠ k := by omega
      simp only [Memory.write, if_neg h1, if_neg h2, Memory.read]
      by_cases hk : a' = k
      · have : a' ≠ a := by omega
        simp [hk, hk ▸ this]
      · simp [hk, ih]

/-- Every address a write lists was listed before, or is the one written. -/
theorem Memory.mem_write {m : Memory} {a : Nat} {v : Byte} {c : Host.Cell} (h : c ∈ m.write a v) :
    c ∈ m ∨ (c = (a, v) ∧ v ≠ Memory.unlisted) := by
  induction m with
  | nil =>
    by_cases hv : v = Memory.unlisted <;> simp [Memory.write, hv] at h
    exact .inr ⟨h, hv⟩
  | cons d m ih =>
    obtain ⟨k, b⟩ := d
    simp only [Memory.write] at h
    split at h
    · split at h
      · exact .inl h
      · rename_i hv
        rcases List.mem_cons.mp h with rfl | h
        · exact .inr ⟨rfl, hv⟩
        · exact .inl h
    · split at h
      · split at h
        · exact .inl (List.mem_cons_of_mem _ h)
        · rename_i hv
          rcases List.mem_cons.mp h with rfl | h
          · exact .inr ⟨rfl, hv⟩
          · exact .inl (List.mem_cons_of_mem _ h)
      · rcases List.mem_cons.mp h with rfl | h
        · exact .inl (by simp)
        · rcases ih h with h | h
          · exact .inl (List.mem_cons_of_mem _ h)
          · exact .inr h

/-- A write keeps the canonical form. -/
theorem Memory.write_wf {m : Memory} (h : m.wf) (a : Nat) (v : Byte) : (m.write a v).wf := by
  induction m with
  | nil =>
    by_cases hv : v = Memory.unlisted
    · simpa [Memory.write, hv] using Memory.wf_nil
    · simpa [Memory.write, hv] using Memory.wf_cons hv (by simp) Memory.wf_nil
  | cons c m ih =>
    obtain ⟨k, b⟩ := c
    have hlt := Memory.wf_head_lt h
    have ht := Memory.wf_tail h
    have hb : b ≠ Memory.unlisted := h.2 (k, b) (by simp)
    simp only [Memory.write]
    split
    · rename_i hak
      split
      · exact h
      · rename_i hv
        refine Memory.wf_cons hv ?_ h
        intro d hd
        rcases List.mem_cons.mp hd with rfl | hd
        · exact hak
        · exact hak.trans (hlt d hd)
    · rename_i hak
      split
      · rename_i he
        subst he
        split
        · exact ht
        · rename_i hv
          exact Memory.wf_cons hv hlt ht
      · rename_i he
        refine Memory.wf_cons hb ?_ (ih ht)
        intro d hd
        rcases Memory.mem_write hd with hd | ⟨rfl, -⟩
        · exact hlt d hd
        · simp only; omega

/-- A write inside a size keeps the space inside it. -/
theorem Memory.write_within {m : Memory} {n a : Nat} (h : m.within n) (ha : a < n) (v : Byte) :
    (m.write a v).within n := by
  intro c hc
  rcases Memory.mem_write hc with hc | ⟨rfl, -⟩
  · exact h c hc
  · exact ha

theorem Memory.store_wf {bs : List Byte} : ∀ {m : Memory}, m.wf → ∀ a, (m.store a bs).wf := by
  induction bs with
  | nil => exact fun h _ => h
  | cons b bs ih => exact fun h a => ih (Memory.write_wf h a b) (a + 1)

theorem Memory.store_within {bs : List Byte} {n : Nat} :
    ∀ {m : Memory} {a : Nat}, m.within n → a + bs.length ≤ n → (m.store a bs).within n := by
  induction bs with
  | nil => exact fun h _ => h
  | cons b bs ih =>
    intro m a h hn
    simp only [List.length_cons] at hn
    exact ih (Memory.write_within h (by omega) b) (by omega)

/-- What a byte reads as after a run of bytes is stored: the stored byte inside the run, what it was outside. -/
theorem Memory.read_store {bs : List Byte} :
    ∀ {m : Memory}, m.wf → ∀ a a', (m.store a bs).read a' =
      if a ≤ a' ∧ a' < a + bs.length then bs.getD (a' - a) 0 else m.read a' := by
  induction bs with
  | nil =>
    intro m _ a a'
    simp [Memory.store]
  | cons b bs ih =>
    intro m h a a'
    rw [Memory.store, ih (Memory.write_wf h a b), Memory.read_write h]
    rcases lt_trichotomy a' a with hlt | rfl | hgt
    · have h1 : ¬ (a + 1 ≤ a' ∧ a' < a + 1 + bs.length) := by omega
      have h2 : ¬ (a ≤ a' ∧ a' < a + (b :: bs).length) := by omega
      rw [if_neg h1, if_neg h2, if_neg hlt.ne]
    · have h1 : ¬ (a' + 1 ≤ a' ∧ a' < a' + 1 + bs.length) := by omega
      have h2 : a' ≤ a' ∧ a' < a' + (b :: bs).length := by simp
      rw [if_neg h1, if_pos h2]
      simp
    · by_cases hin : a' < a + 1 + bs.length
      · have h1 : a + 1 ≤ a' ∧ a' < a + 1 + bs.length := by omega
        have h2 : a ≤ a' ∧ a' < a + (b :: bs).length := by simp only [List.length_cons]; omega
        obtain ⟨d, rfl⟩ : ∃ d, a' = a + 1 + d := ⟨a' - (a + 1), by omega⟩
        rw [if_pos h1, if_pos h2]
        simp [show a + 1 + d - a = d + 1 by omega]
      · have h1 : ¬ (a + 1 ≤ a' ∧ a' < a + 1 + bs.length) := by omega
        have h2 : ¬ (a ≤ a' ∧ a' < a + (b :: bs).length) := by simp only [List.length_cons]; omega
        rw [if_neg h1, if_neg h2, if_neg hgt.ne']

@[simp] theorem datumBytes_length (v : Datum) : (datumBytes v).length = 8 := by simp [datumBytes]

/-- The bytes of a datum, little-endian (00_scope.md R11). -/
theorem datumBytes_getD (v : Datum) {j : Nat} (h : j < 8) : (datumBytes v).getD j 0 = v.extractLsb' (8 * j) 8 := by
  simp [datumBytes, List.getD_eq_getElem?_getD, List.getElem?_map, List.getElem?_range h]

theorem Memory.writeWord_wf {m : Memory} (h : m.wf) (i : Nat) (v : Datum) : (m.writeWord i v).wf :=
  Memory.store_wf h _

theorem Memory.writeWord_within {m : Memory} {n i : Nat} (h : m.within n) (hi : 8 * i + 8 ≤ n) (v : Datum) :
    (m.writeWord i v).within n :=
  Memory.store_within h (by simpa using hi)

/-- What a byte reads as after a word write (20_memory.md R51). -/
theorem Memory.read_writeWord {m : Memory} (h : m.wf) (i : Nat) (v : Datum) (a : Nat) :
    (m.writeWord i v).read a =
      if 8 * i ≤ a ∧ a < 8 * i + 8 then v.extractLsb' (8 * (a - 8 * i)) 8 else m.read a := by
  rw [Memory.writeWord, Memory.read_store h, datumBytes_length]
  split
  · rename_i hin
    rw [datumBytes_getD v (by omega)]
  · rfl

/-- Two bytes-equal canonical spaces are equal: equal memories are equal data. -/
theorem Memory.eq_of_read : ∀ {m m' : Memory}, m.wf → m'.wf → (∀ a, m.read a = m'.read a) → m = m'
  | [], [], _, _, _ => rfl
  | [], (k, b) :: m', _, h', he => by
    have := he k
    simp only [Memory.read, if_true] at this
    exact absurd this.symm (h'.2 (k, b) (by simp))
  | (k, b) :: m, [], h, _, he => by
    have := he k
    simp only [Memory.read, if_true] at this
    exact absurd this (h.2 (k, b) (by simp))
  | (k, b) :: m, (k', b') :: m', h, h', he => by
    have hk : k = k' := by
      rcases lt_trichotomy k k' with hlt | heq | hgt
      · have e := he k
        have hr : Memory.read ((k', b') :: m') k = Memory.unlisted := Memory.read_of_lt_all fun d hd => by
          rcases List.mem_cons.mp hd with rfl | hd
          · exact hlt
          · exact hlt.trans (Memory.wf_head_lt h' d hd)
        rw [hr] at e
        simp only [Memory.read, if_true] at e
        exact absurd e (h.2 (k, b) (by simp))
      · exact heq
      · have e := he k'
        have hr : Memory.read ((k, b) :: m) k' = Memory.unlisted := Memory.read_of_lt_all fun d hd => by
          rcases List.mem_cons.mp hd with rfl | hd
          · exact hgt
          · exact hgt.trans (Memory.wf_head_lt h d hd)
        rw [hr] at e
        simp only [Memory.read, if_true] at e
        exact absurd e.symm (h'.2 (k', b') (by simp))
    subst hk
    have hb : b = b' := by simpa [Memory.read] using he k
    subst hb
    congr 1
    refine Memory.eq_of_read (Memory.wf_tail h) (Memory.wf_tail h') fun a => ?_
    by_cases ha : a = k
    · subst ha
      rw [Memory.read_of_lt_all (Memory.wf_head_lt h), Memory.read_of_lt_all (Memory.wf_head_lt h')]
    · simpa [Memory.read, ha] using he a

/-- Both byte spaces of the reset state are canonical (10_state.md R40). -/
theorem resetOf_spacesOk (b : Params) : (State.resetOf b).SpacesOk :=
  ⟨Memory.wf_nil, by simp [Memory.within, State.resetOf], Memory.wf_nil, by simp [Memory.within, State.resetOf]⟩

end Sys2Proof.Machine
end

