-- ==== Sys2Proof/Laws/State.lean ====
section
/-! SUPPORT. What each named update of the state leaves in each field: one lemma per field per update, so that no proof
unfolds a record update. -/

namespace Sys2Proof.Machine

/-! ### Taking a fault -/

@[simp] theorem raise_build (f : CommandFault) (s : State) : (raise f s).build = s.build := rfl
@[simp] theorem raise_a (f : CommandFault) (s : State) : (raise f s).a = s.a := rfl
@[simp] theorem raise_k (f : CommandFault) (s : State) : (raise f s).k = s.k := rfl
@[simp] theorem raise_ksh (f : CommandFault) (s : State) : (raise f s).ksh = s.ksh := rfl
@[simp] theorem raise_buf (f : CommandFault) (s : State) : (raise f s).buf = s.buf := rfl
@[simp] theorem raise_dig (f : CommandFault) (s : State) : (raise f s).dig = s.dig := rfl
@[simp] theorem raise_quot (f : CommandFault) (s : State) : (raise f s).quot = s.quot := rfl
@[simp] theorem raise_rcv (f : CommandFault) (s : State) : (raise f s).rcv = s.rcv := rfl
@[simp] theorem raise_flatI (f : CommandFault) (s : State) : (raise f s).flatI = s.flatI := rfl
@[simp] theorem raise_flatF (f : CommandFault) (s : State) : (raise f s).flatF = s.flatF := rfl
@[simp] theorem raise_fz (f : CommandFault) (s : State) : (raise f s).fz = s.fz := rfl
@[simp] theorem raise_rounds (f : CommandFault) (s : State) : (raise f s).rounds = s.rounds := rfl
@[simp] theorem raise_rateBits (f : CommandFault) (s : State) : (raise f s).rateBits = s.rateBits := rfl
@[simp] theorem raise_capBits (f : CommandFault) (s : State) : (raise f s).capBits = s.capBits := rfl
@[simp] theorem raise_outBits (f : CommandFault) (s : State) : (raise f s).outBits = s.outBits := rfl
@[simp] theorem raise_ridx (f : CommandFault) (s : State) : (raise f s).ridx = s.ridx := rfl
@[simp] theorem raise_ready (f : CommandFault) (s : State) : (raise f s).ready = f.readyAfter s.ready := rfl
@[simp] theorem raise_lastErr (f : CommandFault) (s : State) : (raise f s).lastErr = f.code := rfl
@[simp] theorem raise_errInfo (f : CommandFault) (s : State) : (raise f s).errInfo = f.info := rfl
@[simp] theorem raise_answer (f : CommandFault) (s : State) :
    (raise f s).answer = some { st := f.code, rd := 0 } := rfl
@[simp] theorem raise_host (f : CommandFault) (s : State) : (raise f s).host = s.host := rfl

/-! ### A passing `INIT` -/

@[simp] theorem beginComputation_build (s : State) : (beginComputation s).build = s.build := rfl
@[simp] theorem beginComputation_a (s : State) : (beginComputation s).a = Lanes.fill 0 := rfl
@[simp] theorem beginComputation_k (s : State) : (beginComputation s).k = Lanes.fill 0 := rfl
@[simp] theorem beginComputation_ksh (s : State) : (beginComputation s).ksh = s.ksh := rfl
@[simp] theorem beginComputation_buf (s : State) : (beginComputation s).buf = [] := rfl
@[simp] theorem beginComputation_dig (s : State) : (beginComputation s).dig = [] := rfl
@[simp] theorem beginComputation_quot (s : State) : (beginComputation s).quot = 0 := rfl
@[simp] theorem beginComputation_rcv (s : State) : (beginComputation s).rcv = 0 := rfl
@[simp] theorem beginComputation_flatI (s : State) : (beginComputation s).flatI = 0 := rfl
@[simp] theorem beginComputation_flatF (s : State) : (beginComputation s).flatF = 0 := rfl
@[simp] theorem beginComputation_fz (s : State) : (beginComputation s).fz = false := rfl
@[simp] theorem beginComputation_rounds (s : State) : (beginComputation s).rounds = s.rounds := rfl
@[simp] theorem beginComputation_rateBits (s : State) : (beginComputation s).rateBits = s.rateBits := rfl
@[simp] theorem beginComputation_capBits (s : State) : (beginComputation s).capBits = s.capBits := rfl
@[simp] theorem beginComputation_outBits (s : State) : (beginComputation s).outBits = s.outBits := rfl
@[simp] theorem beginComputation_ridx (s : State) : (beginComputation s).ridx = 0 := rfl
@[simp] theorem beginComputation_ready (s : State) : (beginComputation s).ready = true := rfl
@[simp] theorem beginComputation_lastErr (s : State) : (beginComputation s).lastErr = s.lastErr := rfl
@[simp] theorem beginComputation_errInfo (s : State) : (beginComputation s).errInfo = s.errInfo := rfl
@[simp] theorem beginComputation_answer (s : State) : (beginComputation s).answer = s.answer := rfl
@[simp] theorem beginComputation_host (s : State) : (beginComputation s).host = s.host := rfl

/-! ### One round -/

@[simp] theorem roundState_build (s : State) : (roundState s).build = s.build := rfl
@[simp] theorem roundState_a (s : State) :
    (roundState s).a = cinjGrid (s.roundConstant s.ridx.toNat) (nlcombGrid (lrelocGrid (lrotGrid s.build.rot
      (cpmixGrid (kappaGrid s.k (s.shiftRow s.ridx.toNat) s.a))))) := rfl

@[simp] theorem roundState_k (s : State) : (roundState s).k = s.k := rfl
@[simp] theorem roundState_ksh (s : State) : (roundState s).ksh = s.ksh := rfl
@[simp] theorem roundState_buf (s : State) : (roundState s).buf = s.buf := rfl
@[simp] theorem roundState_dig (s : State) : (roundState s).dig = s.dig := rfl
@[simp] theorem roundState_quot (s : State) : (roundState s).quot = s.quot := rfl
@[simp] theorem roundState_rcv (s : State) : (roundState s).rcv = s.rcv := rfl
@[simp] theorem roundState_flatI (s : State) : (roundState s).flatI = s.flatI := rfl
@[simp] theorem roundState_flatF (s : State) : (roundState s).flatF = s.flatF := rfl
@[simp] theorem roundState_fz (s : State) : (roundState s).fz = s.fz := rfl
@[simp] theorem roundState_rounds (s : State) : (roundState s).rounds = s.rounds := rfl
@[simp] theorem roundState_rateBits (s : State) : (roundState s).rateBits = s.rateBits := rfl
@[simp] theorem roundState_capBits (s : State) : (roundState s).capBits = s.capBits := rfl
@[simp] theorem roundState_outBits (s : State) : (roundState s).outBits = s.outBits := rfl
@[simp] theorem roundState_ridx (s : State) :
    (roundState s).ridx = BitVec.ofNat 64 ((s.ridx.toNat + 1) % s.rounds.toNat) := rfl
@[simp] theorem roundState_ready (s : State) : (roundState s).ready = s.ready := rfl
@[simp] theorem roundState_lastErr (s : State) : (roundState s).lastErr = s.lastErr := rfl
@[simp] theorem roundState_errInfo (s : State) : (roundState s).errInfo = s.errInfo := rfl
@[simp] theorem roundState_answer (s : State) : (roundState s).answer = s.answer := rfl
@[simp] theorem roundState_host (s : State) : (roundState s).host = s.host := rfl

/-! ### Reducing -/

@[simp] theorem reduceState_build (h : Nat) (s : State) : (reduceState h s).build = s.build := rfl
@[simp] theorem reduceState_a (h : Nat) (s : State) : (reduceState h s).a = s.a := rfl
@[simp] theorem reduceState_k (h : Nat) (s : State) : (reduceState h s).k = s.k := rfl
@[simp] theorem reduceState_ksh (h : Nat) (s : State) : (reduceState h s).ksh = s.ksh := rfl
@[simp] theorem reduceState_buf (h : Nat) (s : State) : (reduceState h s).buf = s.buf := rfl
@[simp] theorem reduceState_dig (h : Nat) (s : State) : (reduceState h s).dig = s.dig := rfl
@[simp] theorem reduceState_quot (h : Nat) (s : State) :
    (reduceState h s).quot = h * s.build.piDen / s.build.piNum := rfl
@[simp] theorem reduceState_rcv (h : Nat) (s : State) : (reduceState h s).rcv = s.rcv := rfl
@[simp] theorem reduceState_flatI (h : Nat) (s : State) :
    (reduceState h s).flatI = if nearInteger s.build (h * s.build.piDen % s.build.piNum) then 0
      else BitVec.ofNat 9 (h * s.build.piDen / s.build.piNum % reducerMod) := rfl

@[simp] theorem reduceState_flatF (h : Nat) (s : State) :
    (reduceState h s).flatF = if nearInteger s.build (h * s.build.piDen % s.build.piNum) then 0
      else BitVec.ofNat 62 (h * s.build.piDen % s.build.piNum) := rfl

@[simp] theorem reduceState_fz (h : Nat) (s : State) :
    (reduceState h s).fz = nearInteger s.build (h * s.build.piDen % s.build.piNum) := rfl
@[simp] theorem reduceState_rounds (h : Nat) (s : State) : (reduceState h s).rounds = s.rounds := rfl
@[simp] theorem reduceState_rateBits (h : Nat) (s : State) : (reduceState h s).rateBits = s.rateBits := rfl
@[simp] theorem reduceState_capBits (h : Nat) (s : State) : (reduceState h s).capBits = s.capBits := rfl
@[simp] theorem reduceState_outBits (h : Nat) (s : State) : (reduceState h s).outBits = s.outBits := rfl
@[simp] theorem reduceState_ridx (h : Nat) (s : State) : (reduceState h s).ridx = s.ridx := rfl
@[simp] theorem reduceState_ready (h : Nat) (s : State) : (reduceState h s).ready = s.ready := rfl
@[simp] theorem reduceState_lastErr (h : Nat) (s : State) : (reduceState h s).lastErr = s.lastErr := rfl
@[simp] theorem reduceState_errInfo (h : Nat) (s : State) : (reduceState h s).errInfo = s.errInfo := rfl
@[simp] theorem reduceState_answer (h : Nat) (s : State) : (reduceState h s).answer = s.answer := rfl
@[simp] theorem reduceState_host (h : Nat) (s : State) : (reduceState h s).host = s.host := rfl

/-! ### Taking the host's action, and an idle step -/

@[simp] theorem taken_build (s : State) (rest : List HostAction) : (s.taken rest).build = s.build := rfl
@[simp] theorem taken_a (s : State) (rest : List HostAction) : (s.taken rest).a = s.a := rfl
@[simp] theorem taken_k (s : State) (rest : List HostAction) : (s.taken rest).k = s.k := rfl
@[simp] theorem taken_ksh (s : State) (rest : List HostAction) : (s.taken rest).ksh = s.ksh := rfl
@[simp] theorem taken_buf (s : State) (rest : List HostAction) : (s.taken rest).buf = s.buf := rfl
@[simp] theorem taken_dig (s : State) (rest : List HostAction) : (s.taken rest).dig = s.dig := rfl
@[simp] theorem taken_quot (s : State) (rest : List HostAction) : (s.taken rest).quot = s.quot := rfl
@[simp] theorem taken_rcv (s : State) (rest : List HostAction) : (s.taken rest).rcv = s.rcv := rfl
@[simp] theorem taken_flatI (s : State) (rest : List HostAction) : (s.taken rest).flatI = s.flatI := rfl
@[simp] theorem taken_flatF (s : State) (rest : List HostAction) : (s.taken rest).flatF = s.flatF := rfl
@[simp] theorem taken_fz (s : State) (rest : List HostAction) : (s.taken rest).fz = s.fz := rfl
@[simp] theorem taken_rounds (s : State) (rest : List HostAction) : (s.taken rest).rounds = s.rounds := rfl
@[simp] theorem taken_rateBits (s : State) (rest : List HostAction) : (s.taken rest).rateBits = s.rateBits := rfl
@[simp] theorem taken_capBits (s : State) (rest : List HostAction) : (s.taken rest).capBits = s.capBits := rfl
@[simp] theorem taken_outBits (s : State) (rest : List HostAction) : (s.taken rest).outBits = s.outBits := rfl
@[simp] theorem taken_ridx (s : State) (rest : List HostAction) : (s.taken rest).ridx = s.ridx := rfl
@[simp] theorem taken_ready (s : State) (rest : List HostAction) : (s.taken rest).ready = s.ready := rfl
@[simp] theorem taken_lastErr (s : State) (rest : List HostAction) : (s.taken rest).lastErr = s.lastErr := rfl
@[simp] theorem taken_errInfo (s : State) (rest : List HostAction) : (s.taken rest).errInfo = s.errInfo := rfl
@[simp] theorem taken_answer (s : State) (rest : List HostAction) : (s.taken rest).answer = s.answer := rfl
@[simp] theorem taken_host (s : State) (rest : List HostAction) : (s.taken rest).host = rest := rfl
@[simp] theorem idleStep_build (s : State) : (idleStep s).build = s.build := rfl
@[simp] theorem idleStep_a (s : State) : (idleStep s).a = s.a := rfl
@[simp] theorem idleStep_k (s : State) : (idleStep s).k = s.k := rfl
@[simp] theorem idleStep_ksh (s : State) : (idleStep s).ksh = s.ksh := rfl
@[simp] theorem idleStep_buf (s : State) : (idleStep s).buf = s.buf := rfl
@[simp] theorem idleStep_dig (s : State) : (idleStep s).dig = s.dig := rfl
@[simp] theorem idleStep_quot (s : State) : (idleStep s).quot = s.quot := rfl
@[simp] theorem idleStep_rcv (s : State) : (idleStep s).rcv = s.rcv := rfl
@[simp] theorem idleStep_flatI (s : State) : (idleStep s).flatI = s.flatI := rfl
@[simp] theorem idleStep_flatF (s : State) : (idleStep s).flatF = s.flatF := rfl
@[simp] theorem idleStep_fz (s : State) : (idleStep s).fz = s.fz := rfl
@[simp] theorem idleStep_rounds (s : State) : (idleStep s).rounds = s.rounds := rfl
@[simp] theorem idleStep_rateBits (s : State) : (idleStep s).rateBits = s.rateBits := rfl
@[simp] theorem idleStep_capBits (s : State) : (idleStep s).capBits = s.capBits := rfl
@[simp] theorem idleStep_outBits (s : State) : (idleStep s).outBits = s.outBits := rfl
@[simp] theorem idleStep_ridx (s : State) : (idleStep s).ridx = s.ridx := rfl
@[simp] theorem idleStep_ready (s : State) : (idleStep s).ready = s.ready := rfl
@[simp] theorem idleStep_lastErr (s : State) : (idleStep s).lastErr = s.lastErr := rfl
@[simp] theorem idleStep_errInfo (s : State) : (idleStep s).errInfo = s.errInfo := rfl
@[simp] theorem idleStep_answer (s : State) : (idleStep s).answer = none := rfl
@[simp] theorem idleStep_host (s : State) : (idleStep s).host = s.host := rfl

/-! ### Writing a control register -/

theorem writeControl_rounds_eq (s : State) (v : Datum) :
    s.writeControl 0 v = { s with rounds := v, ready := false } := rfl

theorem writeControl_rateBits_eq (s : State) (v : Datum) :
    s.writeControl 1 v = { s with rateBits := v, ready := false } := rfl

theorem writeControl_capBits_eq (s : State) (v : Datum) :
    s.writeControl 2 v = { s with capBits := v, ready := false } := rfl

theorem writeControl_outBits_eq (s : State) (v : Datum) :
    s.writeControl 3 v = { s with outBits := v, ready := false } := rfl

theorem writeControl_ridx_eq (s : State) (v : Datum) : s.writeControl 4 v = { s with ridx := v } := rfl

@[simp] theorem writeControl_build (s : State) (n : Nat) (v : Datum) : (s.writeControl n v).build = s.build := by
  unfold State.writeControl; split <;> rfl

@[simp] theorem writeControl_a (s : State) (n : Nat) (v : Datum) : (s.writeControl n v).a = s.a := by
  unfold State.writeControl; split <;> rfl

@[simp] theorem writeControl_k (s : State) (n : Nat) (v : Datum) : (s.writeControl n v).k = s.k := by
  unfold State.writeControl; split <;> rfl

@[simp] theorem writeControl_ksh (s : State) (n : Nat) (v : Datum) : (s.writeControl n v).ksh = s.ksh := by
  unfold State.writeControl; split <;> rfl

@[simp] theorem writeControl_buf (s : State) (n : Nat) (v : Datum) : (s.writeControl n v).buf = s.buf := by
  unfold State.writeControl; split <;> rfl

@[simp] theorem writeControl_dig (s : State) (n : Nat) (v : Datum) : (s.writeControl n v).dig = s.dig := by
  unfold State.writeControl; split <;> rfl

@[simp] theorem writeControl_quot (s : State) (n : Nat) (v : Datum) : (s.writeControl n v).quot = s.quot := by
  unfold State.writeControl; split <;> rfl

@[simp] theorem writeControl_rcv (s : State) (n : Nat) (v : Datum) : (s.writeControl n v).rcv = s.rcv := by
  unfold State.writeControl; split <;> rfl

@[simp] theorem writeControl_flatI (s : State) (n : Nat) (v : Datum) : (s.writeControl n v).flatI = s.flatI := by
  unfold State.writeControl; split <;> rfl

@[simp] theorem writeControl_flatF (s : State) (n : Nat) (v : Datum) : (s.writeControl n v).flatF = s.flatF := by
  unfold State.writeControl; split <;> rfl

@[simp] theorem writeControl_fz (s : State) (n : Nat) (v : Datum) : (s.writeControl n v).fz = s.fz := by
  unfold State.writeControl; split <;> rfl

@[simp] theorem writeControl_lastErr (s : State) (n : Nat) (v : Datum) :
    (s.writeControl n v).lastErr = s.lastErr := by
  unfold State.writeControl; split <;> rfl

@[simp] theorem writeControl_errInfo (s : State) (n : Nat) (v : Datum) :
    (s.writeControl n v).errInfo = s.errInfo := by
  unfold State.writeControl; split <;> rfl

@[simp] theorem writeControl_answer (s : State) (n : Nat) (v : Datum) : (s.writeControl n v).answer = s.answer := by
  unfold State.writeControl; split <;> rfl

@[simp] theorem writeControl_host (s : State) (n : Nat) (v : Datum) : (s.writeControl n v).host = s.host := by
  unfold State.writeControl; split <;> rfl

/-! ### Reset (10_state.md R40) -/

@[simp] theorem resetOf_build (b : Params) : (State.resetOf b).build = b := rfl
@[simp] theorem resetOf_a (b : Params) : (State.resetOf b).a = Lanes.fill 0 := rfl
@[simp] theorem resetOf_k (b : Params) : (State.resetOf b).k = Lanes.fill 0 := rfl
@[simp] theorem resetOf_ksh (b : Params) : (State.resetOf b).ksh = List.replicate b.maxRounds (Lanes.fill 0) := rfl
@[simp] theorem resetOf_buf (b : Params) : (State.resetOf b).buf = [] := rfl
@[simp] theorem resetOf_dig (b : Params) : (State.resetOf b).dig = [] := rfl
@[simp] theorem resetOf_quot (b : Params) : (State.resetOf b).quot = 0 := rfl
@[simp] theorem resetOf_rcv (b : Params) : (State.resetOf b).rcv = 0 := rfl
@[simp] theorem resetOf_flatI (b : Params) : (State.resetOf b).flatI = 0 := rfl
@[simp] theorem resetOf_flatF (b : Params) : (State.resetOf b).flatF = 0 := rfl
@[simp] theorem resetOf_fz (b : Params) : (State.resetOf b).fz = false := rfl
@[simp] theorem resetOf_rounds (b : Params) : (State.resetOf b).rounds = 24 := rfl
@[simp] theorem resetOf_rateBits (b : Params) : (State.resetOf b).rateBits = 1088 := rfl
@[simp] theorem resetOf_capBits (b : Params) : (State.resetOf b).capBits = 512 := rfl
@[simp] theorem resetOf_outBits (b : Params) : (State.resetOf b).outBits = 256 := rfl
@[simp] theorem resetOf_ridx (b : Params) : (State.resetOf b).ridx = 0 := rfl
@[simp] theorem resetOf_ready (b : Params) : (State.resetOf b).ready = false := rfl
@[simp] theorem resetOf_lastErr (b : Params) : (State.resetOf b).lastErr = 0 := rfl
@[simp] theorem resetOf_errInfo (b : Params) : (State.resetOf b).errInfo = 0 := rfl
@[simp] theorem resetOf_answer (b : Params) : (State.resetOf b).answer = none := rfl
@[simp] theorem resetOf_host (b : Params) : (State.resetOf b).host = [] := rfl

end Sys2Proof.Machine
end

