-- ==== Sys2Proof/Laws/Ops.lean ====
section
/-! SUPPORT. Lanes, answers and checks: what each shared operation of Machine/Ops.lean and Machine/Operands.lean can
do, said once. -/

namespace Sys2Proof.Machine

/-! ### Lanes -/

/-- Two arrangements that agree at every position are equal. -/
theorem Lanes.ext {α : Type} {g h : Lanes α} (e : ∀ x y : Fin 5, g[x][y] = h[x][y]) : g = h := by
  refine Vector.ext fun x hx => Vector.ext fun y hy => ?_
  simpa using e ⟨x, hx⟩ ⟨y, hy⟩

/-- The entry at `(x,y)`, with the indices as simp writes them. -/
@[simp] theorem tabulate_getElem {α : Type} (f : Fin 5 → Fin 5 → α) (x y : Nat) (hx : x < 5) (hy : y < 5) :
    (tabulate f)[x][y] = f ⟨x, hx⟩ ⟨y, hy⟩ := by
  simp [tabulate]

theorem tabulate_get {α : Type} (f : Fin 5 → Fin 5 → α) (x y : Fin 5) : (tabulate f)[x][y] = f x y := by
  simp

/-- Writing one entry changes that entry and no other. -/
theorem setLane_get {α : Type} (x y : Fin 5) (v : α) (g : Lanes α) (x' y' : Fin 5) :
    (setLane x y v g)[x'][y'] = if x' = x ∧ y' = y then v else g[x'][y'] := by
  by_cases hx : x' = x
  · subst hx
    by_cases hy : y' = y
    · subst hy; simp [setLane]
    · have : (y : Nat) ≠ y' := fun e => hy (Fin.ext e.symm)
      simp [setLane, hy, Vector.getElem_set_ne, this]
  · have : (x : Nat) ≠ x' := fun e => hx (Fin.ext e.symm)
    simp [setLane, hx, Vector.getElem_set_ne, this]

theorem setLane_get_self {α : Type} (x y : Fin 5) (v : α) (g : Lanes α) : (setLane x y v g)[x][y] = v := by
  rw [setLane_get, if_pos ⟨rfl, rfl⟩]

theorem fill_get {α : Type} (v : α) (x y : Fin 5) : (Lanes.fill v)[x][y] = v := by
  simp [Lanes.fill]

/-! ### Answers -/

theorem complete_eq_next {rd : Datum} {s t : State} :
    complete rd s = .next t ↔ t = { s with answer := some { st := 0x00, rd := rd } } := by
  simp [complete, eq_comm]

theorem fail_eq_next {f : CommandFault} {s t : State} : fail f s = .next t ↔ t = raise f s := by
  simp [fail, eq_comm]

/-- No fault has the code of completion (60_exceptions.md R181). -/
theorem code_ne_ok (f : CommandFault) : f.code ≠ 0x00 := by
  cases f <;> simp [CommandFault.code]

/-! ### Checks: each either passes to the command's body or takes its own fault -/

theorem requireReady_pass {s : State} {body : Result} (h : s.ready = true) : requireReady s body = body := by
  simp [requireReady, h]

theorem requireReady_fail {s : State} {body : Result} (h : s.ready = false) :
    requireReady s body = fail .notReady s := by
  simp [requireReady, h]

theorem requireReady_eq_next {s t : State} {body : Result} :
    requireReady s body = .next t ↔
      (s.ready = true ∧ body = .next t) ∨ (s.ready = false ∧ t = raise .notReady s) := by
  cases h : s.ready <;> simp [requireReady, h, fail_eq_next]

theorem withLane_pass {x y : Nat} {s : State} {body : Fin 5 → Fin 5 → Result} (hx : x < 5) (hy : y < 5) :
    withLane x y s body = body ⟨x, hx⟩ ⟨y, hy⟩ := by
  simp [withLane, hx, hy]

/-- The lanes as numbers of type `Fin 5`. -/
theorem withLane_lane (x y : Fin 5) (s : State) (body : Fin 5 → Fin 5 → Result) :
    withLane x y s body = body x y :=
  withLane_pass x.isLt y.isLt

theorem withLane_fail {x y : Nat} {s : State} {body : Fin 5 → Fin 5 → Result} (h : ¬(x < 5 ∧ y < 5)) :
    withLane x y s body = fail .laneIndexError s := by
  simp only [withLane, dif_neg h]

theorem withLane_eq_next {x y : Nat} {s t : State} {body : Fin 5 → Fin 5 → Result} :
    withLane x y s body = .next t ↔
      (∃ (hx : x < 5) (hy : y < 5), body ⟨x, hx⟩ ⟨y, hy⟩ = .next t) ∨
      (¬(x < 5 ∧ y < 5) ∧ t = raise .laneIndexError s) := by
  by_cases h : x < 5 ∧ y < 5
  · rw [withLane_pass h.1 h.2]
    exact ⟨fun e => .inl ⟨h.1, h.2, e⟩, fun e => e.elim (fun ⟨_, _, e⟩ => e) fun e => absurd h e.1⟩
  · rw [withLane_fail h, fail_eq_next]
    exact ⟨fun e => .inr ⟨h, e⟩, fun e => e.elim (fun ⟨hx, hy, _⟩ => absurd ⟨hx, hy⟩ h) fun e => e.2⟩

theorem requireBelow_pass {i size : Nat} {s : State} {body : Result} (h : i < size) :
    requireBelow i size s body = body := by
  simp [requireBelow, h]

theorem requireBelow_fail {i size : Nat} {s : State} {body : Result} (h : ¬ i < size) :
    requireBelow i size s body = fail .indexRangeError s := by
  simp [requireBelow, h]

theorem requireBelow_eq_next {i size : Nat} {s t : State} {body : Result} :
    requireBelow i size s body = .next t ↔
      (i < size ∧ body = .next t) ∨ (¬ i < size ∧ t = raise .indexRangeError s) := by
  by_cases h : i < size <;> simp [requireBelow, h, fail_eq_next]

theorem requireRound_pass {s : State} {body : Result} (h : s.ridx.toNat < s.rounds.toNat) :
    requireRound s body = body := by
  simp [requireRound, h]

theorem requireRound_fail {s : State} {body : Result} (h : ¬ s.ridx.toNat < s.rounds.toNat) :
    requireRound s body = fail .roundIndexError s := by
  simp only [requireRound, if_neg h]

theorem requireRound_eq_next {s t : State} {body : Result} :
    requireRound s body = .next t ↔
      (s.ridx.toNat < s.rounds.toNat ∧ body = .next t) ∨
      (¬ s.ridx.toNat < s.rounds.toNat ∧ t = raise .roundIndexError s) := by
  by_cases h : s.ridx.toNat < s.rounds.toNat <;>
    simp only [requireRound, h, if_true, if_false, fail_eq_next, true_and, false_and, not_true, not_false_eq_true,
      or_false, false_or]

theorem requirePrecision_pass {s : State} {body : Result} (h : s.outBits.toNat ≤ s.build.redMaxBits) :
    requirePrecision s body = body := by
  simp [requirePrecision, h]

theorem requirePrecision_fail {s : State} {body : Result} (h : ¬ s.outBits.toNat ≤ s.build.redMaxBits) :
    requirePrecision s body = fail .precisionError s := by
  simp only [requirePrecision, if_neg h]

theorem requirePrecision_eq_next {s t : State} {body : Result} :
    requirePrecision s body = .next t ↔
      (s.outBits.toNat ≤ s.build.redMaxBits ∧ body = .next t) ∨
      (¬ s.outBits.toNat ≤ s.build.redMaxBits ∧ t = raise .precisionError s) := by
  by_cases h : s.outBits.toNat ≤ s.build.redMaxBits <;>
    simp only [requirePrecision, h, if_true, if_false, fail_eq_next, true_and, false_and, not_true,
      not_false_eq_true, or_false, false_or]

/-! ### Tables, limbs and the digest as an integer -/

/-- Writing an entry of the shift table: that entry of that row, when the table has the row, and no other. -/
theorem shiftRow_setShift (s : State) (r : Nat) (x y : Fin 5) (v : Shift) (r' : Nat) (x' y' : Fin 5)
    (h : r < s.ksh.length) :
    (({ s with ksh := setShift r x y v s.ksh } : State).shiftRow r')[x'][y'] =
      if r' = r ∧ x' = x ∧ y' = y then v else (s.shiftRow r')[x'][y'] := by
  by_cases hr : r' = r
  · subst hr
    have e : ({ s with ksh := setShift r' x y v s.ksh } : State).shiftRow r' = setLane x y v (s.shiftRow r') := by
      simp [State.shiftRow, setShift, List.getD_eq_getElem?_getD, List.getElem?_eq_getElem h]
    rw [e, setLane_get]
    simp
  · have hr' : r ≠ r' := fun e => hr e.symm
    have e : ({ s with ksh := setShift r x y v s.ksh } : State).shiftRow r' = s.shiftRow r' := by
      simp [State.shiftRow, setShift, List.getD_eq_getElem?_getD, hr']
    rw [e, if_neg fun c => hr c.1]

@[simp] theorem setShift_length (r : Nat) (x y : Fin 5) (v : Shift) (ksh : List ShiftRow) :
    (setShift r x y v ksh).length = ksh.length := by
  simp [setShift]

/-- A limb as a number (20_memory.md R55). -/
theorem limb_toNat (q i : Nat) : (limb q i).toNat = q / 2 ^ (64 * i) % 2 ^ 64 := by simp [limb]

theorem digestInteger_zero (dig : Memory) : digestInteger dig 0 = 0 := rfl

/-- One more digest byte is one more low byte of `H` (20_memory.md R54). -/
theorem digestInteger_succ (dig : Memory) (n : Nat) :
    digestInteger dig (n + 1) = digestInteger dig n * 256 + (dig.read n).toNat := by
  have h : ∀ j ∈ List.range n, (dig.read j).toNat * 256 ^ (n + 1 - 1 - j) =
      (dig.read j).toNat * 256 ^ (n - 1 - j) * 256 := by
    intro j hj
    have hj := List.mem_range.mp hj
    rw [show n + 1 - 1 - j = (n - 1 - j) + 1 by omega, pow_succ, mul_assoc]
  simp only [digestInteger, List.range_succ, List.map_append, List.sum_append, List.map_cons, List.map_nil,
    List.sum_cons, List.sum_nil]
  rw [List.map_congr_left h, List.sum_map_mul_right]
  simp

/-- `H` has `8n` bits (20_memory.md R54). -/
theorem digestInteger_lt (dig : Memory) (n : Nat) : digestInteger dig n < 256 ^ n := by
  induction n with
  | zero => simp [digestInteger_zero]
  | succ n ih =>
    have := (dig.read n).isLt
    rw [digestInteger_succ, pow_succ]
    omega

end Sys2Proof.Machine
end

