-- ==== Sys2Proof/Laws/PerInstr.lean ====
section
/-! SUPPORT. Statements about every instruction, one lemma per constructor. -/

namespace Sys2Proof.Laws.OpcodeField

/-- The opcode field of an encoded command spells its row of 30_encoding.md R74, and a command that ignores the write
datum is encoded with 0 there. -/
def Statement (i : Instr) : Prop :=
  i.wellFormed = true → opcOf (encode i).1 = i.opcode ∧ (i.usesDatum = false → (encode i).2 = 0)

theorem init : Statement .init := fun _ => ⟨by decide, fun _ => rfl⟩

theorem wrcr (n : Nat) (wd : Datum) : Statement (.wrcr n wd) := fun _ =>
  ⟨opcOf_commandWord (Instr.opcode_lt _) _ _ _, fun e => absurd e (by simp [Instr.usesDatum])⟩

theorem rdcr (n : Nat) : Statement (.rdcr n) := fun _ =>
  ⟨opcOf_commandWord (Instr.opcode_lt _) _ _ _, fun _ => rfl⟩

theorem ldk (x y : Nat) (wd : Datum) : Statement (.ldk x y wd) := fun _ =>
  ⟨opcOf_commandWord (Instr.opcode_lt _) _ _ _, fun e => absurd e (by simp [Instr.usesDatum])⟩

theorem ldsh (r x y : Nat) (wd : Datum) : Statement (.ldsh r x y wd) := fun _ =>
  ⟨opcOf_commandWord (Instr.opcode_lt _) _ _ _, fun e => absurd e (by simp [Instr.usesDatum])⟩

theorem rdsh (r x y : Nat) : Statement (.rdsh r x y) := fun _ =>
  ⟨opcOf_commandWord (Instr.opcode_lt _) _ _ _, fun _ => rfl⟩

theorem xorl (x y : Nat) (wd : Datum) : Statement (.xorl x y wd) := fun _ =>
  ⟨opcOf_commandWord (Instr.opcode_lt _) _ _ _, fun e => absurd e (by simp [Instr.usesDatum])⟩

theorem rdl (x y : Nat) : Statement (.rdl x y) := fun _ =>
  ⟨opcOf_commandWord (Instr.opcode_lt _) _ _ _, fun _ => rfl⟩

theorem rdrot (x y : Nat) : Statement (.rdrot x y) := fun _ =>
  ⟨opcOf_commandWord (Instr.opcode_lt _) _ _ _, fun _ => rfl⟩

theorem rdrc (r : Nat) : Statement (.rdrc r) := fun _ =>
  ⟨opcOf_commandWord (Instr.opcode_lt _) _ _ _, fun _ => rfl⟩

theorem kappa : Statement .kappa := fun _ => ⟨by decide, fun _ => rfl⟩

theorem cpmix : Statement .cpmix := fun _ => ⟨by decide, fun _ => rfl⟩

theorem lrot : Statement .lrot := fun _ => ⟨by decide, fun _ => rfl⟩

theorem lreloc : Statement .lreloc := fun _ => ⟨by decide, fun _ => rfl⟩

theorem nlcomb : Statement .nlcomb := fun _ => ⟨by decide, fun _ => rfl⟩

theorem cinj : Statement .cinj := fun _ => ⟨by decide, fun _ => rfl⟩

theorem round : Statement .round := fun _ => ⟨by decide, fun _ => rfl⟩

theorem perm : Statement .perm := fun _ => ⟨by decide, fun _ => rfl⟩

theorem wrbuf (i : Nat) (wd : Datum) : Statement (.wrbuf i wd) := fun _ =>
  ⟨opcOf_commandWord (Instr.opcode_lt _) _ _ _, fun e => absurd e (by simp [Instr.usesDatum])⟩

theorem wrbb (off : Nat) (wd : Datum) : Statement (.wrbb off wd) := fun _ =>
  ⟨opcOf_commandWord (Instr.opcode_lt _) _ _ _, fun e => absurd e (by simp [Instr.usesDatum])⟩

theorem rdbuf (i : Nat) : Statement (.rdbuf i) := fun _ =>
  ⟨opcOf_commandWord (Instr.opcode_lt _) _ _ _, fun _ => rfl⟩

theorem absb : Statement .absb := fun _ => ⟨by decide, fun _ => rfl⟩

theorem absf (n : Nat) : Statement (.absf n) := fun _ =>
  ⟨opcOf_commandWord (Instr.opcode_lt _) _ _ _, fun _ => rfl⟩

theorem sqz : Statement .sqz := fun _ => ⟨by decide, fun _ => rfl⟩

theorem rddig (i : Nat) : Statement (.rddig i) := fun _ =>
  ⟨opcOf_commandWord (Instr.opcode_lt _) _ _ _, fun _ => rfl⟩

theorem wrdig (i : Nat) (wd : Datum) : Statement (.wrdig i wd) := fun _ =>
  ⟨opcOf_commandWord (Instr.opcode_lt _) _ _ _, fun e => absurd e (by simp [Instr.usesDatum])⟩

theorem red : Statement .red := fun _ => ⟨by decide, fun _ => rfl⟩

theorem rdq (i : Nat) : Statement (.rdq i) := fun _ =>
  ⟨opcOf_commandWord (Instr.opcode_lt _) _ _ _, fun _ => rfl⟩

theorem wrq (i : Nat) (wd : Datum) : Statement (.wrq i wd) := fun _ =>
  ⟨opcOf_commandWord (Instr.opcode_lt _) _ _ _, fun e => absurd e (by simp [Instr.usesDatum])⟩

theorem recover : Statement .recover := fun _ => ⟨by decide, fun _ => rfl⟩

theorem rdrec (i : Nat) : Statement (.rdrec i) := fun _ =>
  ⟨opcOf_commandWord (Instr.opcode_lt _) _ _ _, fun _ => rfl⟩

end Sys2Proof.Laws.OpcodeField
end

