-- ==== Sys2Proof/Laws/Permutation.lean ====
section
/-! SUPPORT. The permutation steps lane by lane, and what rounds, absorbing and squeezing leave alone. -/

namespace Sys2Proof.Machine

/-! ### The steps, lane by lane -/

theorem kappaGrid_get (k : Grid) (row : ShiftRow) (a : Grid) (x y : Fin 5) :
    (kappaGrid k row a)[x][y] = a[x][y] ^^^ shr64 k[x][y] row[x][y].toNat := tabulate_get _ x y

theorem cpmixGrid_get (a : Grid) (x y : Fin 5) : (cpmixGrid a)[x][y] = a[x][y] ^^^ columnMix a x :=
  tabulate_get _ x y

theorem lrotGrid_get (rot : ShiftRow) (a : Grid) (x y : Fin 5) :
    (lrotGrid rot a)[x][y] = rotl64 a[x][y] rot[x][y].toNat := tabulate_get _ x y

theorem lrelocGrid_get (a : Grid) (x y : Fin 5) : (lrelocGrid a)[x][y] = a[y][2 * x + 3 * y] :=
  tabulate_get _ x y

theorem nlcombGrid_get (a : Grid) (x y : Fin 5) :
    (nlcombGrid a)[x][y] = a[x][y] ^^^ (not64 a[x + 1][y] &&& a[x + 2][y]) := tabulate_get _ x y

theorem cinjGrid_get (rc : Lane) (a : Grid) (x y : Fin 5) :
    (cinjGrid rc a)[x][y] = if x = 0 ∧ y = 0 then a[x][y] ^^^ rc else a[x][y] := by
  rw [cinjGrid, setLane_get]
  by_cases h : x = 0 ∧ y = 0
  · rw [if_pos h, if_pos h, h.1, h.2]
  · rw [if_neg h, if_neg h]

/-! ### Rounds and the permutation write `A` and `RIDX` only -/

theorem runRounds_succ (n : Nat) (s : State) : runRounds (n + 1) s = runRounds n (roundState s) := rfl

/-- Rounds one after the other, the last one last. -/
theorem runRounds_succ_last (n : Nat) (s : State) : runRounds (n + 1) s = roundState (runRounds n s) := by
  induction n generalizing s with
  | zero => rfl
  | succ n ih => rw [runRounds_succ, ih, runRounds_succ]

theorem runRounds_frame (n : Nat) (s : State) :
    runRounds n s = { s with a := (runRounds n s).a, ridx := (runRounds n s).ridx } := by
  induction n generalizing s with
  | zero => rfl
  | succ n ih => rw [runRounds_succ, ih]; rfl

/-- After `n` rounds from round 0 the index is `n mod ROUNDS` (41_permutation.md R117). -/
theorem runRounds_ridx {n : Nat} {s : State} (h : s.ridx = 0) (hn : n ≤ s.rounds.toNat) (hpos : 0 < s.rounds.toNat) :
    (runRounds n s).ridx.toNat = n % s.rounds.toNat := by
  induction n with
  | zero => simp [runRounds, h]
  | succ n ih =>
    have hr : (runRounds n s).rounds = s.rounds := by rw [runRounds_frame]
    have hlt := s.rounds.isLt
    rw [runRounds_succ_last, roundState_ridx, hr, ih (by omega), BitVec.toNat_ofNat, Nat.mod_eq_of_lt (a := n) (by omega)]
    exact Nat.mod_eq_of_lt (lt_trans (Nat.mod_lt _ hpos) hlt)

theorem permute_frame (s : State) : permute s = { s with a := (permute s).a, ridx := (permute s).ridx } := by
  have h := runRounds_frame s.rounds.toNat { s with ridx := 0 }
  exact h

/-- The permutation leaves `RIDX = 0` (41_permutation.md R118). -/
theorem permute_ridx {s : State} (h : 0 < s.rounds.toNat) : (permute s).ridx = 0 := by
  have e := runRounds_ridx (n := s.rounds.toNat) (s := { s with ridx := 0 }) rfl le_rfl h
  apply BitVec.eq_of_toNat_eq
  rw [permute, e]
  simp

theorem absorb_frame (blk : List Byte) (s : State) :
    absorb blk s = { s with a := (absorb blk s).a, ridx := (absorb blk s).ridx } :=
  permute_frame _

theorem absorbFinal_frame (n : Nat) (s : State) :
    absorbFinal n s = { s with a := (absorbFinal n s).a, ridx := (absorbFinal n s).ridx } := by
  unfold absorbFinal
  by_cases h : n + 2 ≤ s.rateBytes
  · simp only [h, if_true]; exact absorb_frame _ _
  · simp only [h, if_false]; rw [absorb_frame _ (absorb _ s), absorb_frame _ s]

theorem squeezeFrom_frame (fuel need : Nat) (s : State) :
    (squeezeFrom fuel need s).2 =
      { s with a := (squeezeFrom fuel need s).2.a, ridx := (squeezeFrom fuel need s).2.ridx } := by
  induction fuel generalizing need s with
  | zero => rfl
  | succ fuel ih =>
    by_cases h : min s.rateBytes need = need
    · simp [squeezeFrom, h]
    · simp only [squeezeFrom, h, if_false]
      rw [ih, permute_frame]

theorem squeeze_frame (s : State) :
    (squeeze s).2 = { s with a := (squeeze s).2.a, ridx := (squeeze s).2.ridx } :=
  squeezeFrom_frame _ _ _

/-- Enough extractions give all the bytes asked for (42_sponge.md R137). -/
theorem squeezeFrom_length {fuel need : Nat} {s : State} (hr : 0 < s.rateBytes) (h : need ≤ fuel) :
    (squeezeFrom fuel need s).1.length = need := by
  induction fuel generalizing need s with
  | zero => simp [squeezeFrom]; omega
  | succ fuel ih =>
    by_cases hn : min s.rateBytes need = need
    · simp [squeezeFrom, hn]
    · have hp : (permute s).rateBytes = s.rateBytes := by
        have := congrArg State.rateBits (permute_frame s)
        simp [State.rateBytes, this]
      have hlen := ih (need := need - min s.rateBytes need) (s := permute s) (by rw [hp]; exact hr) (by omega)
      simp only [squeezeFrom, hn, if_false, List.length_append, List.length_map, List.length_range, hlen]
      omega

end Sys2Proof.Machine
end

