-- ==== Sys2Proof/Machine/Assembly.lean ====
section
/-! DEFINITION. The host's notation: the assembly line of a command (30_encoding.md R78), the pseudo-instructions and
what they expand to (R79), and the command sequence of a whole digest (42_sponge.md R141). No step uses this file. -/

namespace Sys2Proof.Machine

/-- The name `WRCR` and `RDCR` may write for a control register (30_encoding.md R78). -/
def controlName (n : Nat) : String :=
  match n with
  | 0 => "ROUNDS"
  | 1 => "RATE_BITS"
  | 2 => "CAP_BITS"
  | 3 => "OUT_BITS"
  | 4 => "RIDX"
  | 5 => "STATUS"
  | 6 => "FLATI"
  | 7 => "FLATF"
  | 8 => "LIMITS"
  | _ => toString n

/-- `x,y` (30_encoding.md R78). -/
def laneText (x y : Nat) : String := toString x ++ "," ++ toString y

/-- The tail of a line whose command uses the write datum, in decimal (30_encoding.md R78). -/
def datumText (wd : Datum) : String := " = " ++ toString wd.toNat

/-- The assembly line of a command (30_encoding.md R78). -/
def asm (i : Instr) : String :=
  match i with
  | .init => "INIT"
  | .wrcr n wd => "WRCR " ++ controlName n ++ datumText wd
  | .rdcr n => "RDCR " ++ controlName n
  | .ldk x y wd => "LDK " ++ laneText x y ++ datumText wd
  | .ldsh r x y wd => "LDSH " ++ toString r ++ ", " ++ laneText x y ++ datumText wd
  | .rdsh r x y => "RDSH " ++ toString r ++ ", " ++ laneText x y
  | .xorl x y wd => "XORL " ++ laneText x y ++ datumText wd
  | .rdl x y => "RDL " ++ laneText x y
  | .rdrot x y => "RDROT " ++ laneText x y
  | .rdrc r => "RDRC " ++ toString r
  | .kappa => "KAPPA"
  | .cpmix => "CPMIX"
  | .lrot => "LROT"
  | .lreloc => "LRELOC"
  | .nlcomb => "NLCOMB"
  | .cinj => "CINJ"
  | .round => "ROUND"
  | .perm => "PERM"
  | .wrbuf i wd => "WRBUF " ++ toString i ++ datumText wd
  | .wrbb off wd => "WRBB " ++ toString off ++ datumText wd
  | .rdbuf i => "RDBUF " ++ toString i
  | .absb => "ABSB"
  | .absf n => "ABSF " ++ toString n
  | .sqz => "SQZ"
  | .rddig i => "RDDIG " ++ toString i
  | .wrdig i wd => "WRDIG " ++ toString i ++ datumText wd
  | .red => "RED"
  | .rdq i => "RDQ " ++ toString i
  | .wrq i wd => "WRQ " ++ toString i ++ datumText wd
  | .recover => "REC"
  | .rdrec i => "RDREC " ++ toString i

/-- The transaction the host issues for a command (30_encoding.md R70). -/
def issueOf (i : Instr) : HostAction := .issue (encode i).1 (encode i).2

/-! ### Pseudo-instructions (30_encoding.md R79) -/

/-- `SETUP rounds, rate_bits, out_bits`; with `rate_bits > 1600` it cannot be written. -/
def setup (rounds rateBits outBits : Nat) : Option (List Instr) :=
  if rateBits ≤ stateBits then
    some [.wrcr 0 (BitVec.ofNat 64 rounds), .wrcr 1 (BitVec.ofNat 64 rateBits),
      .wrcr 2 (BitVec.ofNat 64 (stateBits - rateBits)), .wrcr 3 (BitVec.ofNat 64 outBits), .init]
  else none

/-- `WRBLK b0 b1 … b(n-1)`: one `WRBUF` for each started word, bytes beyond the last taken as 0. -/
def wrblk (bs : List Byte) : List Instr :=
  (List.range ((bs.length + 7) / 8)).map fun i =>
    .wrbuf i (BitVec.ofNat 64 ((List.range 8).map fun j => (bs.getD (8 * i + j) 0).toNat * 2 ^ (8 * j)).sum)

/-- The 25 lane positions, column by column. -/
def lanePairs : List (Fin 5 × Fin 5) := (List.finRange 5).flatMap fun x => (List.finRange 5).map fun y => (x, y)

/-- `LDKEY k0 … k24`. -/
def ldkey (k : Grid) : List Instr := lanePairs.map fun p => .ldk p.1 p.2 k[p.1][p.2]

/-- `RDDIGEST` for a digest of `outBytes` bytes. -/
def rddigest (outBytes : Nat) : List Instr := (List.range ((outBytes + 7) / 8)).map .rddig

/-- `RDSTATE`. -/
def rdstate : List Instr := lanePairs.map fun p => .rdl p.1 p.2

/-! ### The whole digest computation (42_sponge.md R141) -/

/-- The host's parameters of one digest, the shift table and the key lanes prepared by the host (00_scope.md R9). -/
structure DigestParams where
  rounds : Nat
  rateBits : Nat
  capBits : Nat
  outBits : Nat
  shifts : List ShiftRow
  key : Grid
deriving DecidableEq, Repr

/-- The configuration and `LDSH` lines (42_sponge.md R141). -/
def digestSetup (p : DigestParams) : List Instr :=
  [.wrcr 0 (BitVec.ofNat 64 p.rounds), .wrcr 1 (BitVec.ofNat 64 p.rateBits),
    .wrcr 2 (BitVec.ofNat 64 p.capBits), .wrcr 3 (BitVec.ofNat 64 p.outBits)] ++
  (List.range p.rounds).flatMap fun r => lanePairs.map fun q =>
    .ldsh r q.1 q.2 ((p.shifts.getD r (Lanes.fill 0))[q.1][q.2].setWidth 64)

/-- The blocks of a message in order, every full one by `WRBLK`, `ABSB` and the rest by `WRBLK`, `ABSF n`. -/
def digestBlocks (rb : Nat) (msg : List Byte) : List Instr :=
  ((List.range (msg.length / rb)).flatMap fun b => wrblk ((msg.drop (b * rb)).take rb) ++ [.absb]) ++
  wrblk (msg.drop (msg.length / rb * rb)) ++ [.absf (msg.length % rb)]

/-- The command sequence that computes `digest(message, key, params)`, without the optional reducer line. -/
def digestCommands (p : DigestParams) (msg : List Byte) : List Instr :=
  digestSetup p ++ [.init] ++ ldkey p.key ++ digestBlocks (p.rateBits / 8) msg ++ [.sqz] ++ rddigest (p.outBits / 8)

/-- The optional reducer line, for a reducer of `limbs` limbs. -/
def reducerCommands (limbs : Nat) : List Instr :=
  [.red] ++ (List.range limbs).map .rdq ++ [.rdcr 6, .rdcr 7, .rdcr 5]

end Sys2Proof.Machine
end

