-- ==== Sys2Proof/Tests/Slice0.lean ====
section
/-! SUPPORT. Tests. Expected values are the spec's own: the examples of the rules and the vectors of 95_test_vectors.md
(named E1, V1, …), or a hand calculation that the comment gives. The last section shows, for every statement that has
hypotheses, states and operands that meet them. -/

namespace Sys2Proof.Tests

open Sys2Proof.Machine

/-! ### Helpers -/

/-- The state a command or a step leaves; the reset state if it stopped. -/
def after (r : Result) : State :=
  match r with
  | .next t => t
  | .fault _ => State.reset
  | .refused _ => State.reset

/-- The answer a command gives, as numbers. -/
def answers (r : Result) : Option (Nat × Nat) := (after r).answer.map fun a => (a.st.toNat, a.rd.toNat)

/-- Whether a command or a step goes on. -/
def goesOn (r : Result) : Bool :=
  match r with
  | .next _ => true
  | .fault _ => false
  | .refused _ => false

theorem eq_next_of_goesOn {r : Result} (h : goesOn r = true) : r = .next (after r) := by
  cases r with
  | next => rfl
  | fault => cases h
  | refused => cases h

/-- What `exec` answers from a state. -/
def run (i : Instr) (s : State) : Option (Nat × Nat) := answers (exec i s)

/-- The reset state after a passing `INIT`. -/
def started : State := { State.reset with ready := true }

/-- `started` with the round index past the last round. -/
def pastLastRound : State := { started with ridx := 24 }

/-- `started` with a digest wider than the reducer. -/
def tooWide : State := { started with outBits := 1024 }

/-- `started` with one lane, the rest 0. -/
def withLaneAt (x y : Fin 5) (v : Lane) : State := { started with a := setLane x y v (Lanes.fill 0) }

/-- `started` with `DIG` holding the 64-bit big-endian integer 22 and `OUT_BITS = 64`. -/
def digest22 : State := { started with outBits := 64, dig := [(7, 22)] }

/-! ### Well-formedness: an ill-formed term for each check -/

theorem test_wellFormed_refuses_wide_idx :
    ∀ i ∈ [Instr.wrcr 256 0, .rdcr 256, .rdrc 256, .wrbuf 256 0, .wrbb 256 0, .rdbuf 256, .absf 256, .rddig 256,
      .wrdig 256 0, .rdq 256, .wrq 256 0, .rdrec 256, .ldsh 256 0 0 0, .rdsh 256 0 0], i.wellFormed = false := by
  decide

theorem test_wellFormed_refuses_wide_x :
    ∀ i ∈ [Instr.ldk 8 0 0, .ldsh 0 8 0 0, .rdsh 0 8 0, .xorl 8 0 0, .rdl 8 0, .rdrot 8 0], i.wellFormed = false := by
  decide

theorem test_wellFormed_refuses_wide_y :
    ∀ i ∈ [Instr.ldk 0 8 0, .ldsh 0 0 8 0, .rdsh 0 0 8, .xorl 0 8 0, .rdl 0 8, .rdrot 0 8], i.wellFormed = false := by
  decide

/-! ### Decoding: words written out from 30_encoding.md R74 and from the rules' own encodings -/

theorem test_decode_state_access :
    decode 0x01000000 9 = .ok .init ∧ decode 0x02030000 0x200 = .ok (.wrcr 3 0x200) ∧
    decode 0x03080000 9 = .ok (.rdcr 8) ∧ decode 0x04000011 0x0123456789ABCDEF = .ok (.ldk 1 1 0x0123456789ABCDEF) ∧
    decode 0x05050032 17 = .ok (.ldsh 5 3 2 17) ∧ decode 0x06050032 9 = .ok (.rdsh 5 3 2) ∧
    decode 0x07000032 0x0F0F = .ok (.xorl 3 2 0x0F0F) ∧ decode 0x08000044 9 = .ok (.rdl 4 4) ∧
    decode 0x09000020 9 = .ok (.rdrot 2 0) ∧ decode 0x0A020000 9 = .ok (.rdrc 2) := by decide

theorem test_decode_permutation :
    decode 0x10000000 9 = .ok .kappa ∧ decode 0x11000000 9 = .ok .cpmix ∧ decode 0x12000000 9 = .ok .lrot ∧
    decode 0x13000000 9 = .ok .lreloc ∧ decode 0x14000000 9 = .ok .nlcomb ∧ decode 0x15000000 9 = .ok .cinj ∧
    decode 0x16000000 9 = .ok .round ∧ decode 0x17000000 9 = .ok .perm := by decide

theorem test_decode_sponge :
    decode 0x20000000 0x74736574 = .ok (.wrbuf 0 0x74736574) ∧ decode 0x21030000 0x75 = .ok (.wrbb 3 0x75) ∧
    decode 0x22180000 9 = .ok (.rdbuf 24) ∧ decode 0x23000000 9 = .ok .absb ∧ decode 0x24870000 9 = .ok (.absf 135) ∧
    decode 0x25000000 9 = .ok .sqz ∧ decode 0x26000000 9 = .ok (.rddig 0) ∧
    decode 0x271F0000 7 = .ok (.wrdig 31 7) := by decide

theorem test_decode_reducer :
    decode 0x30000000 9 = .ok .red ∧ decode 0x31080000 9 = .ok (.rdq 8) ∧ decode 0x32000000 7 = .ok (.wrq 0 7) ∧
    decode 0x33000000 9 = .ok .recover ∧ decode 0x34070000 9 = .ok (.rdrec 7) := by decide

/-- E3 to E7 here, and below E2, E9, E12 to E14, E20. -/
theorem test_decode_unassigned :
    decode 0x00000000 0 = .error .unassignedOpcode ∧ decode 0xFFFFFFFF 0 = .error .unassignedOpcode ∧
    decode 0x0B000000 0 = .error .unassignedOpcode ∧ decode 0x18000000 0 = .error .unassignedOpcode ∧
    decode 0x35000000 0 = .error .unassignedOpcode := by decide

theorem test_decode_reserved :
    decode 0x01000001 0 = .error .reservedBits ∧ decode 0x02030100 0 = .error .reservedBits ∧
    decode 0x08000084 0 = .error .reservedBits ∧ decode 0x08000048 0 = .error .reservedBits ∧
    decode 0x08010044 0 = .error .reservedBits ∧ decode 0x17010000 0 = .error .reservedBits := by decide

/-- E11, E16: operands beyond their range decode. -/
theorem test_decode_out_of_range :
    decode 0x08000077 0 = .ok (.rdl 7 7) ∧ decode 0x05FF0032 0 = .ok (.ldsh 255 3 2 0) := by decide

theorem test_encode :
    encode (.ldsh 23 3 2 17) = (0x05170032, 17) ∧ encode (.rdl 7 7) = (0x08000077, 0) ∧
    encode (.absf 135) = (0x24870000, 0) ∧ encode .perm = (0x17000000, 0) ∧
    encode (.wrcr 3 0x200) = (0x02030000, 0x200) := by decide

/-- The write datum stands above the command word; without its bits it is 0 (log 6). -/
theorem test_decodeTableWord :
    decodeTableWord 32 0x17000000 = some .perm ∧ decodeTableWord 32 0x07000032 = some (.xorl 3 2 0) ∧
    decodeTableWord 96 (0x07000032 + 0x0F0F * 2 ^ 32) = some (.xorl 3 2 0x0F0F) ∧
    decodeTableWord 32 0x17010000 = none := by decide

/-- 30_encoding.md R78. -/
theorem test_asm :
    asm (.ldsh 5 3 2 17) = "LDSH 5, 3,2 = 17" ∧ asm (.wrcr 3 512) = "WRCR OUT_BITS = 512" ∧ asm .recover = "REC" := by
  decide

/-! ### Single commands -/

/-- V1 row 7, as the first command after reset. -/
theorem test_withFetchWord : answers (step (State.reset.withFetchWord 32 0x03080000)) = some (0, 0x0000020008000018) := by
  decide

/-- R210: a reset restores what a command changed, and answers nothing. -/
theorem test_reset :
    after (step { started with host := [.reset], rounds := 3, lastErr := 5 }) = State.reset := by decide

/-- R182: an illegal word. -/
theorem test_illegal :
    let t := after (step { started with host := [.issue 0x17010000 0] })
    t.answer = some ⟨0x01, 0⟩ ∧ t.lastErr = 0x01 ∧ t.ready = true := by decide

/-- R90's example: `STATUS` is 1 after `INIT`. -/
theorem test_init : (after (exec .init { started with ready := false, flatI := 3 })).statusWord = 1 := by decide

/-- V3: ROUNDS = 0 and OUT_BITS = 0 together answer check 2, STATUS `0x020200`. -/
theorem test_init_fails :
    let t := after (exec .init { started with rounds := 0, outBits := 0 })
    t.answer = some ⟨0x02, 0⟩ ∧ t.statusWord = 0x020200 := by decide

/-- V1 rows 12 to 16. -/
theorem test_wrcr :
    (after (exec (.wrcr 3 0x100) started)).ready = false ∧ (after (exec (.wrcr 4 7) started)).ready = true ∧
    (after (exec (.wrcr 4 7) started)).ridx = 7 ∧ run (.wrcr 5 1) started = some (5, 0) := by decide

/-- V1 rows 1 to 9. -/
theorem test_rdcr :
    run (.rdcr 0) State.reset = some (0, 24) ∧ run (.rdcr 1) State.reset = some (0, 0x440) ∧
    run (.rdcr 2) State.reset = some (0, 0x200) ∧ run (.rdcr 3) State.reset = some (0, 0x100) ∧
    run (.rdcr 9) State.reset = some (5, 0) ∧ run (.rdcr 5) (after (exec (.rdcr 9) State.reset)) = some (0, 0x500) := by
  decide

/-- V2 rows 9 and 10. -/
theorem test_ldk :
    (after (exec (.ldk 1 4 7) started)).k = setLane 1 4 7 (Lanes.fill 0) ∧ run (.ldk 0 5 1) started = some (4, 0) := by
  decide

/-- V2 rows 11 to 17. -/
theorem test_ldsh_rdsh :
    run (.rdsh 5 3 2) (after (exec (.ldsh 5 3 2 0x11) started)) = some (0, 0x11) ∧
    run (.rdsh 5 2 3) (after (exec (.ldsh 5 3 2 0x11) started)) = some (0, 0) ∧
    run (.rdsh 24 0 0) started = some (5, 0) := by decide

theorem test_ldsh_checks :
    run (.ldsh 5 3 2 0x40) started = some (5, 0) ∧ run (.ldsh 24 0 0 0) started = some (5, 0) ∧
    run (.ldsh 23 5 0 0x63) started = some (4, 0) := by decide

/-- R97's example, V2 row 7. -/
theorem test_xorl :
    (after (exec (.xorl 3 2 0x0F0F) (withLaneAt 3 2 0xFF))).a = setLane 3 2 0xFF0 (Lanes.fill 0) ∧
    run (.xorl 5 0 1) started = some (4, 0) := by decide

theorem test_rdl :
    run (.rdl 4 1) (withLaneAt 4 1 9) = some (0, 9) ∧ run (.rdl 1 4) (withLaneAt 4 1 9) = some (0, 0) ∧
    run (.rdl 0 7) started = some (4, 0) := by decide

/-- V2 rows 18 to 22; `ROT[1][0] = 1` tells rows from columns. -/
theorem test_rdrot :
    run (.rdrot 1 1) started = some (0, 44) ∧ run (.rdrot 2 0) started = some (0, 62) ∧
    run (.rdrot 1 0) started = some (0, 1) ∧ run (.rdrot 0 5) started = some (4, 0) := by decide

/-- V2 rows 23 to 26. -/
theorem test_rdrc :
    run (.rdrc 2) started = some (0, 0x800000000000808A) ∧ run (.rdrc 23) started = some (0, 0x8000000080008008) ∧
    run (.rdrc 24) started = some (5, 0) := by decide

/-- R24's table, both sides of each seam between its printed columns. -/
theorem test_rdrc_columns :
    run (.rdrc 7) started = some (0, 0x8000000000008009) ∧ run (.rdrc 8) started = some (0, 0x8A) ∧
    run (.rdrc 15) started = some (0, 0x8000000000008003) ∧ run (.rdrc 16) started = some (0, 0x8000000000008002) := by
  decide

/-- R111's example. -/
theorem test_kappa :
    (after (exec .kappa { started with
      k := setLane 1 1 0x0123456789ABCDEF (Lanes.fill 0), ksh := setShift 0 1 1 4 started.ksh })).a =
      setLane 1 1 0x00123456789ABCDE (Lanes.fill 0) := by decide

/-- R112's example. -/
theorem test_cpmix :
    (after (exec .cpmix (withLaneAt 0 0 1))).a =
      #v[#v[1, 0, 0, 0, 0], #v[1, 1, 1, 1, 1], #v[0, 0, 0, 0, 0], #v[0, 0, 0, 0, 0], #v[2, 2, 2, 2, 2]] := by decide

/-- R113's example. -/
theorem test_lrot :
    (after (exec .lrot (withLaneAt 1 0 0x8000000000000001))).a = setLane 1 0 3 (Lanes.fill 0) ∧
    (after (exec .lrot (withLaneAt 2 0 0x8000000000000001))).a = setLane 2 0 0x6000000000000000 (Lanes.fill 0) := by
  decide

/-- R114's example: `(1,3)` to `(0,1)`, `(0,2)` to `(1,0)`, `(4,0)` to `(4,4)`. -/
theorem test_lreloc :
    (after (exec .lreloc (withLaneAt 1 3 0x13))).a = setLane 0 1 0x13 (Lanes.fill 0) ∧
    (after (exec .lreloc (withLaneAt 0 2 0x02))).a = setLane 1 0 0x02 (Lanes.fill 0) ∧
    (after (exec .lreloc (withLaneAt 4 0 0x40))).a = setLane 4 4 0x40 (Lanes.fill 0) := by decide

/-- R115's example. -/
theorem test_nlcomb :
    (after (exec .nlcomb (withLaneAt 2 4 1))).a = setLane 0 4 1 (setLane 2 4 1 (Lanes.fill 0)) := by decide

/-- R116's example, and R187. -/
theorem test_cinj :
    (after (exec .cinj { withLaneAt 0 0 1 with ridx := 1 })).a = setLane 0 0 0x8083 (Lanes.fill 0) ∧
    run .cinj pastLastRound = some (6, 0) := by decide

/-- R117's example, and the wrap of `RIDX` after the last round. -/
theorem test_round :
    (after (exec .round started)).a = setLane 0 0 1 (Lanes.fill 0) ∧ (after (exec .round started)).ridx = 1 ∧
    (after (exec .round { started with ridx := 23 })).ridx = 0 := by decide

/-- R118's example: the 24 rounds on the zero grid, lanes `(0,0)`, `(0,1)` and `(4,4)`. -/
theorem test_perm :
    let a := (after (exec .perm started)).a
    (a[(0 : Fin 5)][(0 : Fin 5)], a[(0 : Fin 5)][(1 : Fin 5)], a[(4 : Fin 5)][(4 : Fin 5)]) =
      (0x59378C3C81085511, 0x02E9647FA56C95E2, 0x40B50FB92EE33AA6) := by decide +kernel

/-- R130's example: "test". -/
theorem test_wrbuf :
    (after (exec (.wrbuf 0 0x74736574) started)).buf = [(0, 0x74), (1, 0x65), (2, 0x73), (3, 0x74)] ∧
    run (.wrbuf 25 0) started = some (5, 0) := by decide

/-- R131's example, and its two ranges. -/
theorem test_wrbb_rdbuf :
    run (.rdbuf 0) (after (exec (.wrbb 3 0x75) (after (exec (.wrbuf 0 0x74736574) started)))) = some (0, 0x75736574) ∧
    run (.wrbb 200 0) started = some (5, 0) ∧ run (.wrbb 199 256) started = some (5, 0) ∧
    run (.rdbuf 25) started = some (5, 0) := by decide

/-- By hand from R134, R135 and R117's example, with one round: byte 136 of `BUF` is beyond the rate and is not absorbed,
so the round works on the zero grid; `BUF` is kept. -/
theorem test_absb :
    let t := after (exec .absb { started with rounds := 1, buf := [(136, 1)] })
    t.a = setLane 0 0 1 (Lanes.fill 0) ∧ t.buf = [(136, 1)] ∧ t.ridx = 0 := by decide +kernel

/-- V30, R139's example: after `ABSF 0` on the empty message lane `(0,0)` is digest word 0. -/
theorem test_absf :
    ((after (exec (.absf 0) started)).a)[(0 : Fin 5)][(0 : Fin 5)] = 0xD960078284973628 := by decide +kernel

/-- R186: `ABSF n` needs `n < RATE_BYTES`; R190: READY comes before it. -/
theorem test_absf_checks :
    run (.absf 136) started = some (5, 0) ∧ run (.absf 200) State.reset = some (3, 0) := by decide

/-- R137 with a digest of one block: lane `(0,1)` is bytes 8 to 15, and a byte of `DIG` beyond `OUT_BYTES` becomes 0. -/
theorem test_sqz :
    (after (exec .sqz { withLaneAt 0 1 0x1122 with dig := [(200, 9)] })).dig = [(8, 0x22), (9, 0x11)] := by decide

/-- R140's example, and the range of `IDX` with the reference build. -/
theorem test_wrdig_rddig :
    (after (exec (.wrdig 0 0x0400000000000000) started)).dig = [(7, 4)] ∧
    run (.rddig 0) digest22 = some (0, 0x1600000000000000) ∧ run (.rddig 31) started = some (0, 0) ∧
    run (.wrdig 32 0) started = some (5, 0) ∧ run (.rddig 32) started = some (5, 0) := by decide

/-- R162's example. -/
theorem test_red :
    let t := after (exec .red digest22)
    t.quot = 7 ∧ t.flatI = 7 ∧ t.flatF = 8851424871447334 ∧ t.fz = false := by decide

/-- R161 at `H = 0`: the remainder 0 lies on a boundary. -/
theorem test_red_zero :
    let t := after (exec .red started)
    t.quot = 0 ∧ t.flatI = 0 ∧ t.flatF = 0 ∧ t.fz = true := by decide

/-- R188, R190: NotReady comes before PrecisionError. -/
theorem test_red_checks :
    run .red tooWide = some (7, 0) ∧ run .recover tooWide = some (7, 0) ∧
    run .red { tooWide with ready := false } = some (3, 0) := by decide

/-- R163's and R164's examples, and limb 1. -/
theorem test_rdq_wrq :
    (after (exec (.wrq 0 7) started)).quot = 7 ∧ (after (exec (.wrq 1 1) { started with quot := 7 })).quot = 2 ^ 64 + 7 ∧
    run (.rdq 1) { started with quot := 2 ^ 64 + 7 } = some (0, 1) ∧ run (.rdq 8) started = some (5, 0) ∧
    run (.wrq 8 0) started = some (5, 0) := by decide

/-- R166's example. -/
theorem test_rec : (after (exec .recover { digest22 with quot := 7 })).rcv = 21 := by decide

/-- R167's example. -/
theorem test_rdrec :
    run (.rdrec 0) { started with rcv := 21 } = some (0, 21) ∧ run (.rdrec 8) started = some (5, 0) := by decide

/-! ### Witnesses: the hypotheses of each statement can be met, each clause's at a boundary of its range -/

theorem witness_DecodeOfEncode : (Instr.ldsh 255 7 7 0xFFFFFFFFFFFFFFFF).wellFormed = true := by decide

theorem witness_EncodeOfDecode : decode 0x05FF0077 0x3F = .ok (.ldsh 255 7 7 0x3F) ∧
    (Instr.ldsh 255 7 7 0x3F).usesDatum = true := by decide

theorem witness_DecodeMatchesExactlyOneRow : decode 0x34FF0000 0 = .ok (.rdrec 255) ∧
    decode 0x35000000 0 = .error .unassignedOpcode ∧ decode 0x34FF0001 0 = .error .reservedBits := by decide

theorem witness_StepRunsDecodedCommand :
    ({ started with host := [.issue 0x17000000 0] } : State).host = .issue 0x17000000 0 :: [] ∧
    decode 0x17000000 0 = .ok .perm ∧ Instr.perm.wellFormed = true ∧ decodeTableWord 32 0x17000000 = some .perm := by
  decide

theorem witness_IllegalWordChangesOnlyTheRecord :
    ({ started with host := [.issue 0x01000001 0] } : State).host = .issue 0x01000001 0 :: [] ∧
    decode 0x01000001 0 = .error .reservedBits := by decide

theorem witness_ResetRestoresEveryRegister : ({ started with host := [.reset] } : State).host = .reset :: [] := by
  decide

theorem witness_ResetMeetsInvariant : referenceBuild.Legal := by decide

/-- A state of a run in which every part of the invariant says something: `READY = 1`, bytes in both spaces, a
quotient, a recorded fault. -/
theorem witness_StepKeepsInvariant :
    let s : State := { digest22 with
      buf := [(199, 1)], quot := 7, lastErr := 2, errInfo := 6, host := [.issue 0x30000000 0] }
    s.Inv ∧ ∃ t, step s = .next t :=
  ⟨by decide +kernel, _, eq_next_of_goesOn (by decide +kernel)⟩

theorem witness_StepKeepsBuild : ∃ t, step State.reset = .next t := ⟨_, rfl⟩

theorem witness_EveryTransactionIsAnswered :
    ({ started with host := [.issue 0 0] } : State).host = .issue 0 0 :: [] := by decide

/-- A completion, a fault of a command that is not `INIT`, and a failing `INIT`. -/
theorem witness_FaultEntry :
    (∃ t, step { started with host := [.issue 0x08000000 0] } = .next t ∧ t.answer = some ⟨0, 0⟩) ∧
    (∃ t, step { started with host := [.issue 0x08000050 0] } = .next t ∧ t.answer = some ⟨4, 0⟩) ∧
    (∃ t, step { started with rounds := 0, host := [.issue 0x01000000 0] } = .next t ∧ t.answer = some ⟨2, 0⟩) ∧
    opcOf 0x08000050 ≠ 0x01 ∧ decode 0x01000000 0 = .ok .init :=
  ⟨⟨_, eq_next_of_goesOn (by decide), by decide⟩, ⟨_, eq_next_of_goesOn (by decide), by decide⟩,
    ⟨_, eq_next_of_goesOn (by decide), by decide⟩, by decide, by decide⟩

theorem witness_FaultPriority :
    (decode 0x17010000 0 = .error .reservedBits ∧
      ({ started with host := [.issue 0x17010000 0] } : State).host = .issue 0x17010000 0 :: []) ∧
    firstFault (.ldsh 30 5 0 99) started = some .laneIndexError ∧
    firstFault (.ldsh 30 0 0 99) started = some .indexRangeError ∧
    firstFault .red { tooWide with ready := false } = some .notReady ∧ firstFault .red tooWide = some .precisionError ∧
    firstFault .round pastLastRound = some .roundIndexError ∧
    firstFault .init { started with rounds := 25 } = some (.configurationError 4) ∧
    firstFault (.ldsh 23 4 4 63) started = none := by decide

theorem witness_StatusBitsHaveTheirWriters :
    (∃ t, exec (.wrcr 3 256) started = .next t ∧ t.ready ≠ started.ready) ∧
    (∃ t, exec .init State.reset = .next t ∧ t.ready ≠ State.reset.ready) ∧
    (∃ t, exec .red started = .next t ∧ t.fz ≠ started.fz) ∧
    (∃ t, exec .init { started with fz := true } = .next t ∧ t.fz ≠ true) :=
  ⟨⟨_, rfl, by decide⟩, ⟨_, rfl, by decide⟩, ⟨_, rfl, by decide⟩, ⟨_, rfl, by decide⟩⟩

theorem witness_ReadsHaveNoSideEffect :
    (Instr.rdcr 5).isRead = true ∧
    ∃ t rd, exec (.rdcr 5) { started with lastErr := 5 } = .next t ∧ t.answer = some ⟨0x00, rd⟩ :=
  ⟨rfl, _, _, rfl, rfl⟩

theorem witness_InitBeginsComputation :
    State.reset.configCheck = 0 ∧ ({ State.reset with outBits := 2048, rateBits := 8, capBits := 1592 } : State).configCheck = 0 ∧
    ({ State.reset with outBits := 2056 } : State).configCheck ≠ 0 := by decide

/-- V3: each test at the edge of its range. -/
theorem witness_ConfigCheckIsFirstFailure :
    configCheck referenceBuild 24 1088 512 2048 = 0 ∧ configCheck referenceBuild 1 8 1592 8 = 0 ∧
    configCheck referenceBuild 24 (2 ^ 64 - 1) 1601 256 = 1 ∧ configCheck referenceBuild 0 1088 512 0 = 2 ∧
    configCheck referenceBuild 0 1088 512 256 = 3 ∧ configCheck referenceBuild 25 1088 512 256 = 4 ∧
    configCheck referenceBuild 24 0 1600 256 = 5 ∧ configCheck referenceBuild 24 1088 512 2056 = 6 := by decide

theorem witness_WriteControlRegister :
    (4 ≤ 4 ∧ run (.wrcr 4 7) started = some (0, 0)) ∧ (5 ≤ 5 ∧ run (.wrcr 5 7) started = some (5, 0)) := by decide

theorem witness_ReadControlRegister :
    (8 ≤ 8 ∧ run (.rdcr 8) started = some (0, 0x0000020008000018)) ∧ (9 ≤ 9 ∧ run (.rdcr 9) started = some (5, 0)) := by
  decide

theorem witness_StatusAndLimitsLayout :
    referenceBuild.maxRounds < 2 ^ 8 ∧ referenceBuild.maxOutBits < 2 ^ 16 ∧ referenceBuild.redMaxBits < 2 ^ 16 := by decide

theorem witness_LoadKeyLane : (4 < 5 ∨ 4 < 0) ∧ run (.ldk 4 4 1) started = some (0, 0) ∧
    run (.ldk 5 0 1) started = some (4, 0) := by decide

theorem witness_LoadShiftEntry :
    (started.TableOk ∧ 23 < started.build.maxRounds ∧ (63 : Datum).toNat ≤ 63) ∧ (4 < 0 ∨ 4 < 5) ∧
    (started.build.maxRounds ≤ 24 ∨ 63 < (0 : Datum).toNat) ∧
    (started.build.maxRounds ≤ 0 ∨ 63 < (64 : Datum).toNat) := by decide

theorem witness_ReadShiftEntry :
    (23 < started.build.maxRounds ∧ started.ksh[23]? = some (Lanes.fill 0)) ∧ (4 < 5 ∨ 4 < 0) ∧
    started.build.maxRounds ≤ 24 := by decide

theorem witness_XorIntoLane : (4 < 5 ∨ 4 < 0) ∧ run (.xorl 4 4 1) started = some (0, 0) := by decide

theorem witness_ReadLane : (4 < 0 ∨ 4 < 5) ∧ run (.rdl 4 4) started = some (0, 0) := by decide

theorem witness_ReadRoms : (4 < 5 ∨ 4 < 0) ∧ 23 < started.build.rc.length ∧ started.build.maxRounds ≤ 24 := by decide

theorem witness_LaneOperationLaws : (0 : Nat) < 64 ∧ 63 < 64 ∧ rotl64 0x8000000000000001 1 = 3 := by decide

theorem witness_LaneOrderAndByteView : 24 < 25 ∧ 7 < 8 ∧ 199 < 200 ∧
    stateByte .xOuter (setLane 4 4 0x0102030405060708 (Lanes.fill 0)) 199 = 1 := by decide

/-- The round commands complete below `ROUNDS`, fault at it, and fault without `READY`. -/
theorem witness_KappaXorsShiftedKey :
    (started.ready = true ∧ started.ridx.toNat < started.rounds.toNat) ∧ State.reset.ready = false ∧
    (pastLastRound.ready = true ∧ pastLastRound.rounds.toNat ≤ pastLastRound.ridx.toNat) := by decide

theorem witness_CpmixMixesColumnParities : started.ready = true ∧ State.reset.ready = false ∧
    (opcOf 0x11000001 = 0x11 ∧ (0x11000001 : CommandWord) ≠ 0x11000000) := by decide

theorem witness_LrotRotatesEachLane : started.ready = true ∧ State.reset.ready = false ∧
    (opcOf 0x12FFFFFF = 0x12 ∧ (0x12FFFFFF : CommandWord) ≠ 0x12000000) := by decide

theorem witness_LrelocMovesLanes : started.ready = true ∧ State.reset.ready = false := by decide

theorem witness_NlcombCombinesRow : started.ready = true ∧ State.reset.ready = false ∧ 63 < 64 := by decide

theorem witness_CinjInjectsConstant :
    let s : State := { started with ridx := 23 }
    (s.ready = true ∧ s.ridx.toNat < s.rounds.toNat ∧ s.build.rc[s.ridx.toNat]? = some 0x8000000080008008) ∧
    State.reset.ready = false ∧
    (pastLastRound.ready = true ∧ pastLastRound.rounds.toNat ≤ pastLastRound.ridx.toNat) := by decide

theorem witness_RoundIsSixStepsThenAdvance :
    let s : State := { started with ridx := 23 }
    (s.ready = true ∧ s.ridx.toNat < s.rounds.toNat) ∧ State.reset.ready = false ∧
    (pastLastRound.ready = true ∧ pastLastRound.rounds.toNat ≤ pastLastRound.ridx.toNat) := by decide

theorem witness_PermIsRoundsFromZero : (started.ready = true ∧ started.ReadyOk) ∧ State.reset.ready = false := by decide

theorem witness_KappaAndCinjUndoThemselves :
    started.ready = true ∧ started.ridx.toNat < started.rounds.toNat ∧ ∀ x y : Fin 5, started.k[x][y] = 0 := by decide

theorem witness_LrelocHasOrder24 : started.ready = true ∧ 0 < 23 ∧ 23 < 24 := by decide

theorem witness_StepsAreInjective :
    ∀ i ∈ [Instr.kappa, .lrot, .lreloc, .nlcomb, .cinj],
      started.ready = true ∧ (i.consumesRound = true → started.ridx.toNat < started.rounds.toNat) ∧
      ∃ t, exec i { started with a := Lanes.fill 5 } = .next t := by
  have h : ∀ i ∈ [Instr.kappa, .lrot, .lreloc, .nlcomb, .cinj],
      goesOn (exec i { started with a := Lanes.fill 5 }) = true := by decide
  exact fun i hi => ⟨rfl, fun _ => by decide, _, eq_next_of_goesOn (h i hi)⟩

theorem witness_CpmixIsInjective : started.ready = true ∧
    ∃ t, exec .cpmix { started with a := Lanes.fill 5 } = .next t := ⟨rfl, _, rfl⟩

theorem witness_WriteBlockWord : (started.buf.wf ∧ 24 ≤ 24) ∧ 24 < 25 := by decide

theorem witness_WriteBlockByte :
    (started.buf.wf ∧ 199 ≤ 199 ∧ (255 : Datum).toNat ≤ 255) ∧ (199 < 200 ∨ 255 < (0 : Datum).toNat) ∧
    (199 < 0 ∨ 255 < (256 : Datum).toNat) := by decide

theorem witness_ReadBlockWord : 24 ≤ 24 ∧ 24 < 25 ∧ run (.rdbuf 24) started = some (0, 0) := by decide

theorem witness_AbsorbFullBlock : (started.ready = true ∧ started.ReadyOk) ∧ State.reset.ready = false := by decide

theorem witness_AbsorbXorsBufferWords : (136 ≤ 200 ∧ 136 % 8 = 0 ∧ 24 < 25) ∧ (200 ≤ 200 ∧ 199 < 200) := by decide

theorem witness_PaddingIsShortest : 0 < 136 ∧ pad 2 [7] = [7, 0x06, 0x00, 0x80] ∧ pad 2 [] = [0x06, 0x80] := by decide

/-- Two free bytes, one free byte, none. -/
theorem witness_AbsorbFinalBlock :
    (started.ready = true ∧ started.ReadyOk ∧ 134 < started.rateBytes ∧ 134 + 2 ≤ started.rateBytes) ∧
    (135 < started.rateBytes ∧ 135 + 1 = started.rateBytes) ∧ State.reset.ready = false ∧
    started.rateBytes ≤ 136 := by decide

theorem witness_SqueezeFillsDigest :
    (started.ready = true ∧ started.ReadyOk ∧ 31 < started.outBytes ∧ started.outBytes ≤ 32) ∧
    State.reset.ready = false := by decide

theorem witness_ShorterDigestIsPrefix :
    started.ready = true ∧ started.ReadyOk ∧ ({ started with outBits := 2048 } : State).ReadyOk ∧
    started.outBits.toNat ≤ (2048 : Datum).toNat := by decide

theorem witness_ReadDigestWord : 31 < started.build.maxOutBits / 64 ∧ started.build.maxOutBits / 64 ≤ 32 := by decide

theorem witness_WriteDigestWord :
    (started.dig.wf ∧ 31 < started.build.maxOutBits / 64) ∧ started.build.maxOutBits / 64 ≤ 32 := by decide

theorem witness_ReduceDividesByPi :
    (digest22.build.Legal ∧ digest22.ready = true ∧ digest22.outBits.toNat ≤ digest22.build.redMaxBits) ∧
    ({ started with outBits := 512 } : State).outBits.toNat ≤ started.build.redMaxBits ∧ State.reset.ready = false ∧
    (tooWide.ready = true ∧ tooWide.build.redMaxBits < tooWide.outBits.toNat) := by decide

theorem witness_ReadLimbs : 7 < started.build.redMaxBits / 64 ∧ started.build.redMaxBits / 64 ≤ 8 := by decide

theorem witness_WriteQuotientLimb :
    (started.build.Legal ∧ 7 < started.build.redMaxBits / 64 ∧ started.quot < 2 ^ started.build.redMaxBits) ∧
    started.build.redMaxBits / 64 ≤ 8 := by decide +kernel

theorem witness_RecoverMultipliesByPi :
    (started.build.Legal ∧ started.ready = true ∧ started.outBits.toNat ≤ started.build.redMaxBits) ∧
    State.reset.ready = false ∧ (tooWide.ready = true ∧ tooWide.build.redMaxBits < tooWide.outBits.toNat) := by decide

theorem witness_RecoveryErrorBound :
    digest22.build.Legal ∧ digest22.ready = true ∧ digest22.outBits.toNat ≤ digest22.build.redMaxBits ∧
    digest22.build.piNum = 3141592653589793238 ∧ digest22.build.piDen = 10 ^ 18 := by decide

theorem witness_KeyLanesAreNotReadBack : Instr.sqz.readsKey = true ∧ Instr.red.readsKey = false := by decide

theorem witness_UnusedShiftRowsAreNotRead :
    let s : State := { started with rounds := 1 }
    Instr.perm.isComputing = true ∧ ∀ r, r < s.rounds.toNat →
      ({ s with ksh := Lanes.fill 0 :: List.replicate 23 (Lanes.fill 5) } : State).shiftRow r = s.shiftRow r := by decide

end Sys2Proof.Tests
end

section
/-! PROOFS. Every command ends in an answer, and what no step changes (00_scope.md R15, 10_state.md R41,
30_encoding.md R70). -/

namespace Sys2Proof.Machine

/-! ### How a command answers (00_scope.md R15, 30_encoding.md R70) -/

/-- What no command changes when it completes: the build, the host's actions to come and the fault record
(10_state.md R41, 60_exceptions.md R191). -/
structure State.KeepsContext (s s' : State) : Prop where
  build : s'.build = s.build
  host : s'.host = s.host
  lastErr : s'.lastErr = s.lastErr
  errInfo : s'.errInfo = s.errInfo

/-- The two ways a command issued in `s` can end: a fault taken in `s` itself, or completion in a state with the
context of `s`. -/
inductive Answers (s : State) : Result → Prop where
  | faults (f : CommandFault) : Answers s (fail f s)
  | completes {s' : State} (rd : Datum) (h : s.KeepsContext s') : Answers s (complete rd s')

theorem State.KeepsContext.refl (s : State) : s.KeepsContext s := ⟨rfl, rfl, rfl, rfl⟩

theorem keepsContext_of_gridUpdate {s s' : State} (h : s' = { s with a := s'.a, ridx := s'.ridx }) :
    s.KeepsContext s' := by
  rw [h]; exact ⟨rfl, rfl, rfl, rfl⟩

theorem keepsContext_writeControl (s : State) (n : Nat) (v : Datum) : s.KeepsContext (s.writeControl n v) :=
  ⟨by simp, by simp, by simp, by simp⟩

theorem keepsContext_squeeze (s : State) (dig : Memory) :
    s.KeepsContext { (squeeze s).2 with dig := dig } := by
  rw [squeeze_frame]; exact ⟨rfl, rfl, rfl, rfl⟩

section Checks
variable {s : State} {body : Result}

theorem Answers.requireReady (h : Answers s body) : Answers s (requireReady s body) := by
  cases hr : s.ready with
  | true => rwa [requireReady_pass hr]
  | false => rw [requireReady_fail hr]; exact .faults _

theorem Answers.requireBelow {i size : Nat} (h : Answers s body) : Answers s (requireBelow i size s body) := by
  by_cases hi : i < size
  · rwa [requireBelow_pass hi]
  · rw [requireBelow_fail hi]; exact .faults _

theorem Answers.requireRound (h : Answers s body) : Answers s (requireRound s body) := by
  by_cases hr : s.ridx.toNat < s.rounds.toNat
  · rwa [requireRound_pass hr]
  · rw [requireRound_fail hr]; exact .faults _

theorem Answers.requirePrecision (h : Answers s body) : Answers s (requirePrecision s body) := by
  by_cases hp : s.outBits.toNat ≤ s.build.redMaxBits
  · rwa [requirePrecision_pass hp]
  · rw [requirePrecision_fail hp]; exact .faults _

theorem Answers.withLane {x y : Nat} {onLane : Fin 5 → Fin 5 → Result} (h : ∀ x y, Answers s (onLane x y)) :
    Answers s (withLane x y s onLane) := by
  by_cases hl : x < 5 ∧ y < 5
  · rw [withLane_pass hl.1 hl.2]; exact h _ _
  · rw [withLane_fail hl]; exact .faults _

end Checks

theorem execInit_answers (s : State) : Answers s (execInit s) := by
  unfold execInit
  split
  · exact .completes _ ⟨rfl, rfl, rfl, rfl⟩
  · exact .faults _

/-- Every command, in every state, takes a fault or completes (00_scope.md R15). -/
theorem exec_answers (i : Instr) (s : State) : Answers s (exec i s) := by
  have same := State.KeepsContext.refl s
  cases i with
  | init => exact execInit_answers s
  | wrcr n wd => exact .requireBelow (.completes _ (keepsContext_writeControl s n wd))
  | rdcr n => exact .requireBelow (.completes _ same)
  | ldk x y wd =>
    show Answers s (execLdk x y wd s)
    exact .withLane fun _ _ => .completes _ ⟨rfl, rfl, rfl, rfl⟩
  | ldsh r x y wd =>
    show Answers s (execLdsh r x y wd s)
    exact .withLane fun _ _ => .requireBelow <| .requireBelow <| .completes _ ⟨rfl, rfl, rfl, rfl⟩
  | rdsh r x y =>
    show Answers s (execRdsh r x y s)
    exact .withLane fun _ _ => .requireBelow (.completes _ same)
  | xorl x y wd =>
    show Answers s (execXorl x y wd s)
    exact .withLane fun _ _ => .completes _ ⟨rfl, rfl, rfl, rfl⟩
  | rdl x y =>
    show Answers s (execRdl x y s)
    exact .withLane fun _ _ => .completes _ same
  | rdrot x y =>
    show Answers s (execRdrot x y s)
    exact .withLane fun _ _ => .completes _ same
  | rdrc r => exact .requireBelow (.completes _ same)
  | kappa => exact .requireReady <| .requireRound <| .completes _ ⟨rfl, rfl, rfl, rfl⟩
  | cpmix => exact .requireReady <| .completes _ ⟨rfl, rfl, rfl, rfl⟩
  | lrot => exact .requireReady <| .completes _ ⟨rfl, rfl, rfl, rfl⟩
  | lreloc => exact .requireReady <| .completes _ ⟨rfl, rfl, rfl, rfl⟩
  | nlcomb => exact .requireReady <| .completes _ ⟨rfl, rfl, rfl, rfl⟩
  | cinj => exact .requireReady <| .requireRound <| .completes _ ⟨rfl, rfl, rfl, rfl⟩
  | round => exact .requireReady <| .requireRound <| .completes _ ⟨rfl, rfl, rfl, rfl⟩
  | perm => exact .requireReady <| .completes _ (keepsContext_of_gridUpdate (permute_frame s))
  | wrbuf w wd => exact .requireBelow <| .completes _ ⟨rfl, rfl, rfl, rfl⟩
  | wrbb off wd => exact .requireBelow <| .requireBelow <| .completes _ ⟨rfl, rfl, rfl, rfl⟩
  | rdbuf w => exact .requireBelow (.completes _ same)
  | absb => exact .requireReady <| .completes _ (keepsContext_of_gridUpdate (absorb_frame _ s))
  | absf n => exact .requireReady <| .requireBelow <| .completes _ (keepsContext_of_gridUpdate (absorbFinal_frame n s))
  | sqz => exact .requireReady <| .completes _ (keepsContext_squeeze s _)
  | rddig w => exact .requireBelow (.completes _ same)
  | wrdig w wd => exact .requireBelow <| .completes _ ⟨rfl, rfl, rfl, rfl⟩
  | red => exact .requireReady <| .requirePrecision <| .completes _ ⟨rfl, rfl, rfl, rfl⟩
  | rdq l => exact .requireBelow (.completes _ same)
  | wrq l wd => exact .requireBelow <| .completes _ ⟨rfl, rfl, rfl, rfl⟩
  | recover => exact .requireReady <| .requirePrecision <| .completes _ ⟨rfl, rfl, rfl, rfl⟩
  | rdrec l => exact .requireBelow (.completes _ same)

/-! ### The step, by the host's next action -/

theorem step_idle {s : State} (h : s.host = []) : step s = .next (idleStep s) := by
  simp only [step, h]

theorem step_reset {s : State} {rest : List HostAction} (h : s.host = .reset :: rest) :
    step s = .next (resetStep s rest) := by
  simp only [step, h]

theorem step_issue_ok {s : State} {cw : CommandWord} {wd : Datum} {rest : List HostAction} {i : Instr}
    (h : s.host = .issue cw wd :: rest) (hd : decode cw wd = .ok i) : step s = exec i (s.taken rest) := by
  simp only [step, h, hd]

theorem step_issue_illegal {s : State} {cw : CommandWord} {wd : Datum} {rest : List HostAction} {e : DecodeError}
    (h : s.host = .issue cw wd :: rest) (hd : decode cw wd = .error e) :
    step s = fail .illegalCommand (s.taken rest) := by
  simp only [step, h, hd]
  rfl

/-- A transaction is answered as a command is, an illegal word included (60_exceptions.md R182). -/
theorem step_issue_answers {s : State} {cw : CommandWord} {wd : Datum} {rest : List HostAction}
    (h : s.host = .issue cw wd :: rest) : Answers (s.taken rest) (step s) := by
  cases hd : decode cw wd with
  | ok i => rw [step_issue_ok h hd]; exact exec_answers i _
  | error e => rw [step_issue_illegal h hd]; exact .faults _

/-! ### What an answer leaves and says -/

/-- A fault and a completion alike leave the build and the host's actions to come. -/
theorem Answers.build_host {s t : State} (h : Answers s (.next t)) : t.build = s.build ∧ t.host = s.host := by
  generalize hr : Host.Outcome.next t = r at h
  cases h with
  | faults f =>
    rw [fail_eq_next.mp hr.symm]
    exact ⟨raise_build f s, raise_host f s⟩
  | completes rd h =>
    rw [complete_eq_next.mp hr.symm]
    exact ⟨h.build, h.host⟩

theorem CommandFault.code_toNat_le (f : CommandFault) : f.code.toNat ≤ 7 := by
  cases f <;> simp [CommandFault.code]

/-- An answer is there, its code is one of the eight of 60_exceptions.md R181, and a fault reads 0. -/
theorem Answers.exists_answer {s : State} {r : Result} (h : Answers s r) :
    ∃ t a, r = .next t ∧ t.answer = some a ∧ t.host = s.host ∧ a.st.toNat ≤ 7 ∧ (a.st ≠ 0 → a.rd = 0) := by
  cases h with
  | faults f => exact ⟨_, _, rfl, rfl, rfl, f.code_toNat_le, fun _ => rfl⟩
  | completes rd h => exact ⟨_, _, rfl, rfl, h.host, by simp, fun hst => absurd rfl hst⟩

/-! ### The obligations -/

/-- Settles O10, by the three kinds of step. -/
theorem stepKeepsBuild : Obligations.StepKeepsBuild := by
  intro s t ht
  cases hs : s.host with
  | nil =>
    rw [step_idle hs] at ht
    cases ht
    exact ⟨rfl, hs⟩
  | cons action rest =>
    cases action with
    | reset =>
      rw [step_reset hs] at ht
      cases ht
      exact ⟨rfl, rfl⟩
    | issue cw wd => exact (ht ▸ step_issue_answers hs).build_host

/-- Settles O11: a transaction's step ends as a command does, and every such end is an answer. -/
theorem everyTransactionIsAnswered : Obligations.EveryTransactionIsAnswered := by
  intro s cw wd rest hs
  exact (step_issue_answers hs).exists_answer

end Sys2Proof.Machine
end

section
/-! PROOFS. The lane operations, the lane order and the byte view of the grid (00_scope.md R12 to R14). -/

namespace Sys2Proof.Machine

/-! ### The lane operations as integer laws (00_scope.md R12) -/

theorem shr64_toNat (v : Lane) (n : Nat) : (shr64 v n).toNat = v.toNat / 2 ^ n := by
  rw [shr64, BitVec.toNat_ushiftRight, Nat.shiftRight_eq_div_pow]

theorem not64_toNat (v : Lane) : (not64 v).toNat = 2 ^ 64 - 1 - v.toNat := BitVec.toNat_not

/-- The bits rotated out at the top are below `2^n` and the others are multiples of it, so that their union is a
sum. -/
theorem rotl64_toNat (v : Lane) {n : Nat} (hpos : 0 < n) (hn : n < 64) :
    (rotl64 v n).toNat = v.toNat * 2 ^ n % 2 ^ 64 + v.toNat / 2 ^ (64 - n) := by
  have hsplit : 2 ^ 64 = 2 ^ (64 - n) * 2 ^ n := by rw [← pow_add]; congr 1; omega
  have hhigh : v.toNat * 2 ^ n % 2 ^ 64 = (v.toNat % 2 ^ (64 - n)) <<< n := by
    rw [hsplit, Nat.mul_mod_mul_right, Nat.shiftLeft_eq]
  have hlow : v.toNat / 2 ^ (64 - n) < 2 ^ n := by
    rw [Nat.div_lt_iff_lt_mul (by positivity), mul_comm, ← hsplit]
    exact v.isLt
  calc (rotl64 v n).toNat
      = v.toNat * 2 ^ n % 2 ^ 64 ||| v.toNat / 2 ^ (64 - n) := by
        rw [rotl64, BitVec.toNat_rotateLeft, Nat.mod_eq_of_lt hn, Nat.shiftLeft_eq, Nat.shiftRight_eq_div_pow]
    _ = v.toNat * 2 ^ n % 2 ^ 64 + v.toNat / 2 ^ (64 - n) := by
        rw [hhigh, Nat.shiftLeft_add_eq_or_of_lt hlow]

/-- Bit `i` goes to bit `(i + n) mod 64`: below the top end it moves up by `n`, else it comes in at the bottom. -/
theorem rotl64_getLsbD_add_mod (v : Lane) {n i : Nat} (hn : n < 64) (hi : i < 64) :
    (rotl64 v n).getLsbD ((i + n) % 64) = v.getLsbD i := by
  rw [rotl64, BitVec.getLsbD_rotateLeft, Nat.mod_eq_of_lt hn]
  by_cases hwrap : i + n < 64
  · have hge : ¬ i + n < n := by omega
    simp [Nat.mod_eq_of_lt hwrap, hge, hwrap]
  · have hmod : (i + n) % 64 = i + n - 64 := by omega
    have hlt : i + n - 64 < n := by omega
    have hsrc : 64 - n + (i + n - 64) = i := by omega
    simp [hmod, hlt, hsrc]

theorem rotl64_zero (v : Lane) : rotl64 v 0 = v := by
  refine BitVec.eq_of_getLsbD_eq fun i hi => ?_
  simpa [Nat.mod_eq_of_lt hi] using rotl64_getLsbD_add_mod v (n := 0) (by omega) hi

/-- Settles O27, one law per operation. -/
theorem laneOperationLaws : Obligations.LaneOperationLaws := by
  intro v n hn
  refine ⟨?_, fun i hi => rotl64_getLsbD_add_mod v hn hi, shr64_toNat v n, not64_toNat v⟩
  split
  case isTrue h => rw [h, rotl64_zero]
  case isFalse h => exact rotl64_toNat v (Nat.pos_of_ne_zero h) hn

/-! ### The lane order (00_scope.md R13) -/

theorem lanePos_xOuter (x y : Fin 5) : lanePos .xOuter (5 * x.val + y.val) = (x, y) := by
  simp only [lanePos, Prod.mk.injEq, Fin.ext_iff, Fin.val_ofNat]
  omega

theorem lanePos_yOuter (x y : Fin 5) : lanePos .yOuter (5 * y.val + x.val) = (x, y) := by
  simp only [lanePos, Prod.mk.injEq, Fin.ext_iff, Fin.val_ofNat]
  omega

/-- Every lane is one of the 25 of a block, under either order. -/
theorem exists_lanePos_eq (o : LaneOrder) (x y : Fin 5) : ∃ i, i < 25 ∧ lanePos o i = (x, y) := by
  cases o with
  | xOuter => exact ⟨5 * x.val + y.val, by omega, lanePos_xOuter x y⟩
  | yOuter => exact ⟨5 * y.val + x.val, by omega, lanePos_yOuter x y⟩

/-- No two of the 25 are the same lane. -/
theorem lanePos_inj {o : LaneOrder} {i i' : Nat} (hi : i < 25) (hi' : i' < 25) (h : lanePos o i = lanePos o i') :
    i = i' := by
  cases o <;> simp only [lanePos, Prod.mk.injEq, Fin.ext_iff, Fin.val_ofNat] at h <;> omega

/-! ### Bytes of a lane -/

/-- A byte shifted to place `k` of a lane is that byte there and zero in the other places. -/
theorem extractByte_shiftByte (b : Byte) {k k' : Nat} (hk : k < 8) (hk' : k' < 8) :
    (b.setWidth 64 <<< (8 * k)).extractLsb' (8 * k') 8 = if k' = k then b else 0 := by
  ext i hi
  by_cases h : k' = k
  · subst h
    have hlane : 8 * k' + i < 64 := by omega
    simp [hlane, BitVec.getLsbD_eq_getElem hi]
  · have hout : 8 * k ≤ 8 * k' + i → b.getLsbD (8 * k' + i - 8 * k) = false := fun _ =>
      BitVec.getLsbD_of_ge _ _ (by omega)
    simpa [h] using fun _ hge _ => hout hge

/-- A lane is its eight bytes. -/
theorem lane_eq_of_bytes {v w : Lane} (h : ∀ k, k < 8 → v.extractLsb' (8 * k) 8 = w.extractLsb' (8 * k) 8) :
    v = w := by
  refine BitVec.eq_of_getLsbD_eq fun i hi => ?_
  have hbyte := congrArg (·.getLsbD (i % 8)) (h (i / 8) (by omega))
  have hbit : 8 * (i / 8) + i % 8 = i := by omega
  simpa [Nat.mod_lt, hbit] using hbyte

/-! ### The byte view (00_scope.md R14) -/

theorem stateByte_lane (o : LaneOrder) (a : Grid) (i : Nat) {k : Nat} (hk : k < 8) :
    stateByte o a (8 * i + k) = a[(lanePos o i).1][(lanePos o i).2].extractLsb' (8 * k) 8 := by
  have hdiv : (8 * i + k) / 8 = i := by omega
  have hmod : (8 * i + k) % 8 = k := by omega
  simp only [stateByte, hdiv, hmod]

/-- The lane at place `i'` after a byte was XORed into byte `j` of the view. -/
theorem xorStateByte_lane (o : LaneOrder) (a : Grid) {j i' : Nat} (b : Byte) (hj : j < 200) (hi' : i' < 25) :
    (xorStateByte o j b a)[(lanePos o i').1][(lanePos o i').2] =
      if i' = j / 8 then a[(lanePos o i').1][(lanePos o i').2] ^^^ (b.setWidth 64 <<< (8 * (j % 8)))
      else a[(lanePos o i').1][(lanePos o i').2] := by
  rw [xorStateByte, setLane_get]
  by_cases h : i' = j / 8
  · simp [h]
  · have hpos : ¬((lanePos o i').1 = (lanePos o (j / 8)).1 ∧ (lanePos o i').2 = (lanePos o (j / 8)).2) :=
      fun e => h (lanePos_inj hi' (by omega) (Prod.ext e.1 e.2))
    rw [if_neg hpos, if_neg h]

/-- XORing into byte `j` changes that byte of the view and no other. -/
theorem stateByte_xorStateByte (o : LaneOrder) (a : Grid) {j j' : Nat} (b : Byte) (hj : j < 200) (hj' : j' < 200) :
    stateByte o (xorStateByte o j b a) j' = if j' = j then stateByte o a j ^^^ b else stateByte o a j' := by
  rw [stateByte, xorStateByte_lane o a b hj (by omega)]
  by_cases hlane : j' / 8 = j / 8
  · rw [if_pos hlane, BitVec.extractLsb'_xor, extractByte_shiftByte b (by omega) (by omega)]
    by_cases h : j' = j
    · subst h; simp [stateByte]
    · have hplace : ¬ j' % 8 = j % 8 := by omega
      simp [h, hplace, stateByte]
  · have h : ¬ j' = j := fun e => hlane (e ▸ rfl)
    rw [if_neg hlane, if_neg h, stateByte]

/-- The 200 bytes of the view determine the grid. -/
theorem grid_eq_of_stateBytes {o : LaneOrder} {a a' : Grid}
    (h : ∀ j, j < 200 → stateByte o a j = stateByte o a' j) : a = a' := by
  refine Lanes.ext fun x y => lane_eq_of_bytes fun k hk => ?_
  obtain ⟨i, hi, hpos⟩ := exists_lanePos_eq o x y
  have hbyte := h (8 * i + k) (by omega)
  simpa only [stateByte_lane o a i hk, stateByte_lane o a' i hk, hpos] using hbyte

/-- Settles O28, for both values of `LANE_ORDER`. -/
theorem laneOrderAndByteView : Obligations.LaneOrderAndByteView :=
  ⟨fun x y => ⟨lanePos_xOuter x y, lanePos_yOuter x y⟩,
    fun o a i _ _ hk => stateByte_lane o a i hk,
    fun o a _ _ b hj hj' => stateByte_xorStateByte o a b hj hj',
    fun _ _ _ => grid_eq_of_stateBytes⟩

end Sys2Proof.Machine
end

section
/-! PROOFS. What a command other than `INIT` can end in, the reset values, and the invariant that every step keeps
(10_state.md R20 to R42, 40_state_access.md R91, 60_exceptions.md R191). -/

namespace Sys2Proof.Machine

/-! ### How a command other than `INIT` ends -/

/-- The ways a command issued in `s` can end when it makes no configuration check: a fault that is no
ConfigurationError, taken in `s` itself, or completion in a state of which `P` holds. -/
inductive Ends (s : State) (P : State → Prop) : Result → Prop where
  | faults (f : CommandFault) (hf : ∀ check, f ≠ .configurationError check) : Ends s P (fail f s)
  | completes {s' : State} (rd : Datum) (h : P s') : Ends s P (complete rd s')

section Checks
variable {s : State} {P : State → Prop} {body : Result}

theorem Ends.requireReady (h : s.ready = true → Ends s P body) : Ends s P (requireReady s body) := by
  cases hr : s.ready with
  | true => rw [requireReady_pass hr]; exact h hr
  | false => rw [requireReady_fail hr]; exact .faults _ (by simp)

theorem Ends.requireBelow {i size : Nat} (h : i < size → Ends s P body) : Ends s P (requireBelow i size s body) := by
  by_cases hi : i < size
  · rw [requireBelow_pass hi]; exact h hi
  · rw [requireBelow_fail hi]; exact .faults _ (by simp)

theorem Ends.requireRound (h : s.ridx.toNat < s.rounds.toNat → Ends s P body) : Ends s P (requireRound s body) := by
  by_cases hr : s.ridx.toNat < s.rounds.toNat
  · rw [requireRound_pass hr]; exact h hr
  · rw [requireRound_fail hr]; exact .faults _ (by simp)

theorem Ends.requirePrecision (h : s.outBits.toNat ≤ s.build.redMaxBits → Ends s P body) :
    Ends s P (requirePrecision s body) := by
  by_cases hp : s.outBits.toNat ≤ s.build.redMaxBits
  · rw [requirePrecision_pass hp]; exact h hp
  · rw [requirePrecision_fail hp]; exact .faults _ (by simp)

theorem Ends.withLane {x y : Nat} {onLane : Fin 5 → Fin 5 → Result} (h : ∀ x y, Ends s P (onLane x y)) :
    Ends s P (withLane x y s onLane) := by
  by_cases hl : x < 5 ∧ y < 5
  · rw [withLane_pass hl.1 hl.2]; exact h _ _
  · rw [withLane_fail hl]; exact .faults _ (by simp)

/-- What holds of a faulted state and of every completed one holds of the next state. -/
theorem Ends.next {r : Result} {Q : State → Prop} (h : Ends s P r)
    (hf : ∀ f : CommandFault, (∀ check, f ≠ .configurationError check) → Q (raise f s))
    (hc : ∀ s' a, P s' → Q { s' with answer := a }) : ∃ t, r = .next t ∧ Q t := by
  cases h with
  | faults f hne => exact ⟨_, rfl, hf f hne⟩
  | completes rd h => exact ⟨_, rfl, hc _ _ h⟩

end Checks

theorem execInit_pass {s : State} (h : s.configCheck = 0) : execInit s = complete 0 (beginComputation s) := by
  rw [execInit, if_pos h]

theorem execInit_fail {s : State} (h : s.configCheck ≠ 0) :
    execInit s = fail (.configurationError s.configCheck) s := by
  rw [execInit, if_neg h]

/-! ### `CfgCheck()` (40_state_access.md R91) -/

theorem configCheck_le (b : Params) (rounds rate cap out : Nat) : configCheck b rounds rate cap out ≤ 6 := by
  unfold configCheck
  split_ifs <;> omega

/-- What a passing configuration satisfies, test by test. -/
theorem bounds_of_configCheck_eq_zero {b : Params} {rounds rate cap out : Nat}
    (h : configCheck b rounds rate cap out = 0) :
    rate + cap = stateBits ∧ 0 < out ∧ (0 < rounds ∧ rounds ≤ b.maxRounds) ∧ (0 < rate ∧ rate % 8 = 0) ∧
      out % 8 = 0 ∧ out ≤ b.maxOutBits := by
  unfold configCheck at h
  split_ifs at h
  omega

theorem rateBytes_pos_of_configCheck {s : State} (h : s.configCheck = 0) : 0 < s.rateBytes := by
  obtain ⟨-, -, -, ⟨hpos, hmod⟩, -, -⟩ := bounds_of_configCheck_eq_zero h
  unfold State.rateBytes
  omega

theorem outBytes_le_of_configCheck {s : State} (h : s.configCheck = 0) : s.outBytes ≤ s.build.maxOutBytes := by
  obtain ⟨-, -, -, -, -, hout⟩ := bounds_of_configCheck_eq_zero h
  exact Nat.div_le_div_right hout

/-! ### The reducer's ranges (10_state.md R27 to R29) -/

/-- Replacing a limb of an `n`-limb register leaves an `n`-limb register (20_memory.md R55). -/
theorem setLimb_lt {q i n : Nat} (hq : q < 2 ^ (64 * n)) (hi : i < n) (v : Datum) : setLimb q i v < 2 ^ (64 * n) := by
  have hsplit : 2 ^ (64 * n) = 2 ^ (64 * (n - (i + 1))) * 2 ^ (64 * (i + 1)) := by rw [← pow_add]; congr 1; omega
  have hhigh : q / 2 ^ (64 * (i + 1)) < 2 ^ (64 * (n - (i + 1))) := by
    rwa [Nat.div_lt_iff_lt_mul (by positivity), ← hsplit]
  have hlow : v.toNat * 2 ^ (64 * i) + q % 2 ^ (64 * i) < 2 ^ (64 * (i + 1)) := by
    have hmod := Nat.mod_lt q (show 0 < 2 ^ (64 * i) by positivity)
    have hlimb := Nat.mul_le_mul_right (2 ^ (64 * i)) (Nat.succ_le_of_lt v.isLt)
    calc v.toNat * 2 ^ (64 * i) + q % 2 ^ (64 * i)
        < (v.toNat + 1) * 2 ^ (64 * i) := by linarith
      _ ≤ 2 ^ 64 * 2 ^ (64 * i) := hlimb
      _ = 2 ^ (64 * (i + 1)) := by rw [← pow_add]; congr 1; omega
  calc setLimb q i v
      = q / 2 ^ (64 * (i + 1)) * 2 ^ (64 * (i + 1)) + (v.toNat * 2 ^ (64 * i) + q % 2 ^ (64 * i)) := by
        rw [setLimb, Nat.add_assoc]
    _ < (q / 2 ^ (64 * (i + 1)) + 1) * 2 ^ (64 * (i + 1)) := by linarith
    _ ≤ 2 ^ (64 * n) := by rw [hsplit]; exact Nat.mul_le_mul_right _ hhigh

theorem digestInteger_lt_two_pow {bits width : Nat} (dig : Memory) (h : bits ≤ width) :
    digestInteger dig (bits / 8) < 2 ^ width := by
  calc digestInteger dig (bits / 8)
      < 256 ^ (bits / 8) := digestInteger_lt dig _
    _ = 2 ^ (8 * (bits / 8)) := by rw [pow_mul]; rfl
    _ ≤ 2 ^ width := Nat.pow_le_pow_right (by omega) (by omega)

/-- A reducer whose registers are all 0, as a reset and a passing `INIT` leave it. -/
theorem reducerOk_of_zero {s : State} (hb : s.build.Legal) (hquot : s.quot = 0) (hrcv : s.rcv = 0)
    (hflatI : s.flatI = 0) (hflatF : s.flatF = 0) : s.ReducerOk := by
  obtain ⟨-, -, -, -, -, -, hpi, -⟩ := hb
  refine ⟨by rw [hquot]; positivity, by rw [hrcv]; positivity, ?_, ?_, fun _ => ⟨hflatI, hflatF⟩⟩
  · rw [hflatI]; decide
  · rw [hflatF]; exact (Nat.zero_le _).trans_lt hpi

/-- The quotient by a number greater than 1 is no wider than the dividend (43_reducer.md R162). -/
theorem reduceState_reducerOk {s : State} {h : Nat} (hb : s.build.Legal) (hs : s.ReducerOk)
    (hh : h < 2 ^ s.build.redMaxBits) : (reduceState h s).ReducerOk := by
  obtain ⟨-, -, -, -, -, -, hpi, hnum⟩ := hb
  obtain ⟨-, hrcv, -, -, -⟩ := hs
  have hrem : h * s.build.piDen % s.build.piNum < s.build.piNum := Nat.mod_lt _ (by omega)
  refine ⟨?quot, hrcv, ?flatI, ?flatF, ?zero⟩
  case quot =>
    refine lt_of_le_of_lt (Nat.div_le_of_le_mul ?_) hh
    rw [mul_comm]
    exact Nat.mul_le_mul_right h hpi.le
  case flatI =>
    rw [reduceState_flatI]
    split
    · simp [reducerMod]
    · rw [BitVec.toNat_ofNat, reducerMod]; omega
  case flatF =>
    rw [reduceState_flatF]
    split
    · simpa using (Nat.zero_le _).trans_lt hpi
    · rw [BitVec.toNat_ofNat, Nat.mod_eq_of_lt (hrem.trans_le hnum)]; exact hrem
  case zero =>
    intro hfz
    rw [reduceState_fz] at hfz
    rw [reduceState_flatI, reduceState_flatF, if_pos hfz, if_pos hfz]
    exact ⟨rfl, rfl⟩

theorem recoverInteger_lt {b : Params} {q bits : Nat} (h : bits ≤ b.redMaxBits) :
    recoverInteger b q bits < 2 ^ b.redMaxBits :=
  lt_of_lt_of_le (Nat.mod_lt _ (by positivity)) (Nat.pow_le_pow_right (by omega) h)

/-! ### The invariant, update by update -/

section Invariant
variable {s : State}

theorem inv_of_gridUpdate {s' : State} (h : s' = { s with a := s'.a, ridx := s'.ridx }) (hs : s.Inv) : s'.Inv := by
  rw [h]; exact hs

theorem inv_of_bufUpdate {m : Memory} (hs : s.Inv) (hwf : m.wf) (hin : m.within bufBytes) :
    ({ s with buf := m } : State).Inv := by
  obtain ⟨hbuild, ⟨-, -, hdig⟩, hrest⟩ := hs
  exact ⟨hbuild, ⟨hwf, hin, hdig⟩, hrest⟩

theorem inv_of_digUpdate {m : Memory} (hs : s.Inv) (hwf : m.wf) (hin : m.within s.build.maxOutBytes) :
    ({ s with dig := m } : State).Inv := by
  obtain ⟨hbuild, ⟨hbuf, hbufIn, -, -⟩, hrest⟩ := hs
  exact ⟨hbuild, ⟨hbuf, hbufIn, hwf, hin⟩, hrest⟩

theorem inv_setShift (hs : s.Inv) (r : Nat) (x y : Fin 5) (v : Shift) :
    ({ s with ksh := setShift r x y v s.ksh } : State).Inv := by
  obtain ⟨hbuild, hspaces, htable, hrest⟩ := hs
  exact ⟨hbuild, hspaces, (setShift_length r x y v s.ksh).trans htable, hrest⟩

/-- A write to a configuration register makes no claim about the configuration, for it clears `READY`
(10_state.md R32). -/
theorem inv_writeControl (hs : s.Inv) (n : Nat) (v : Datum) : (s.writeControl n v).Inv := by
  obtain ⟨hbuild, hspaces, htable, hready, hrest⟩ := hs
  unfold State.writeControl
  split
  · exact ⟨hbuild, hspaces, htable, (nomatch ·), hrest⟩
  · exact ⟨hbuild, hspaces, htable, (nomatch ·), hrest⟩
  · exact ⟨hbuild, hspaces, htable, (nomatch ·), hrest⟩
  · exact ⟨hbuild, hspaces, htable, (nomatch ·), hrest⟩
  · exact ⟨hbuild, hspaces, htable, hready, hrest⟩
  · exact ⟨hbuild, hspaces, htable, hready, hrest⟩

theorem inv_quotUpdate {q : Nat} (hs : s.Inv) (hq : q < 2 ^ s.build.redMaxBits) :
    ({ s with quot := q } : State).Inv := by
  obtain ⟨hbuild, hspaces, htable, hready, ⟨-, hreducer⟩, hrecord⟩ := hs
  exact ⟨hbuild, hspaces, htable, hready, ⟨hq, hreducer⟩, hrecord⟩

theorem inv_rcvUpdate {q : Nat} (hs : s.Inv) (hq : q < 2 ^ s.build.redMaxBits) :
    ({ s with rcv := q } : State).Inv := by
  obtain ⟨hbuild, hspaces, htable, hready, ⟨hquot, -, hflat⟩, hrecord⟩ := hs
  exact ⟨hbuild, hspaces, htable, hready, ⟨hquot, hq, hflat⟩, hrecord⟩

theorem inv_reduceState {h : Nat} (hs : s.Inv) (hh : h < 2 ^ s.build.redMaxBits) : (reduceState h s).Inv := by
  obtain ⟨hbuild, hspaces, htable, hready, hreducer, hrecord⟩ := hs
  exact ⟨hbuild, hspaces, htable, hready, reduceState_reducerOk hbuild hreducer hh, hrecord⟩

/-- `WRQ` writes a limb that `QUOT` has (43_reducer.md R164). -/
theorem inv_setLimb {i : Nat} (hs : s.Inv) (hi : i < s.build.redLimbs) (v : Datum) :
    ({ s with quot := setLimb s.quot i v } : State).Inv := by
  have ⟨⟨_, _, _, hwidth, _⟩, _, _, _, ⟨hquot, _⟩, _⟩ := hs
  have hlimbs : s.build.redMaxBits = 64 * s.build.redLimbs := by unfold Params.redLimbs; omega
  rw [hlimbs] at hquot
  exact inv_quotUpdate hs (hlimbs ▸ setLimb_lt hquot hi v)

/-- A legal configuration squeezes no more bytes than `DIG` holds (42_sponge.md R138). -/
theorem inv_squeeze (hs : s.Inv) (hr : s.ready = true) :
    ({ (squeeze s).2 with dig := Memory.store [] 0 (squeeze s).1 } : State).Inv := by
  have ⟨_, _, _, hready, _⟩ := hs
  have hcfg := hready hr
  have hlength : (squeeze s).1.length = s.outBytes := squeezeFrom_length (rateBytes_pos_of_configCheck hcfg) le_rfl
  have hin : Memory.within (Memory.store [] 0 (squeeze s).1) s.build.maxOutBytes :=
    Memory.store_within (by simp) (by rw [hlength, Nat.zero_add]; exact outBytes_le_of_configCheck hcfg)
  have hgrid : (squeeze s).2.Inv := inv_of_gridUpdate (squeeze_frame s) hs
  refine inv_of_digUpdate hgrid (Memory.store_wf Memory.wf_nil 0) ?_
  rw [squeeze_frame]
  exact hin

theorem inv_beginComputation (hs : s.Inv) (hcfg : s.configCheck = 0) : (beginComputation s).Inv := by
  obtain ⟨hbuild, -, htable, -, -, hrecord⟩ := hs
  refine ⟨hbuild, ⟨Memory.wf_nil, by simp, Memory.wf_nil, by simp⟩, htable, fun _ => hcfg, ?_, hrecord⟩
  exact reducerOk_of_zero hbuild rfl rfl rfl rfl

/-- A fault keeps the invariant when its own record is legal (60_exceptions.md R191). -/
theorem inv_raise {f : CommandFault} (hs : s.Inv) (hinfo : f.info.toNat ≤ 6) (hiff : f.info ≠ 0 ↔ f.code = 2) :
    (raise f s).Inv := by
  obtain ⟨hbuild, hspaces, htable, hready, hreducer, -⟩ := hs
  have hkeep : f.readyAfter s.ready = true → s.ready = true := by
    cases f <;> simp [CommandFault.readyAfter]
  exact ⟨hbuild, hspaces, htable, fun h => hready (hkeep h), hreducer, f.code_toNat_le, hinfo, hiff⟩

theorem inv_raise_of_ne {f : CommandFault} (hs : s.Inv) (hf : ∀ check, f ≠ .configurationError check) :
    (raise f s).Inv := by
  cases f with
  | configurationError check => exact absurd rfl (hf check)
  | illegalCommand => exact inv_raise hs (by decide) (by decide)
  | notReady => exact inv_raise hs (by decide) (by decide)
  | laneIndexError => exact inv_raise hs (by decide) (by decide)
  | indexRangeError => exact inv_raise hs (by decide) (by decide)
  | roundIndexError => exact inv_raise hs (by decide) (by decide)
  | precisionError => exact inv_raise hs (by decide) (by decide)

/-- A failing `INIT` records the number of a check, 1 to 6 (40_state_access.md R91). -/
theorem inv_raise_configurationError (hs : s.Inv) (hcfg : s.configCheck ≠ 0) :
    (raise (.configurationError s.configCheck) s).Inv := by
  have hle : s.configCheck ≤ 6 := configCheck_le ..
  have hinfo : (BitVec.ofNat 8 s.configCheck).toNat = s.configCheck := by
    rw [BitVec.toNat_ofNat]; omega
  have hne : BitVec.ofNat 8 s.configCheck ≠ 0 := fun h => hcfg (by rw [← hinfo, h]; rfl)
  exact inv_raise hs (hinfo.trans_le hle) ⟨fun _ => rfl, fun _ => hne⟩

end Invariant

/-! ### The commands that name a lane, with their checks in view -/

section LaneCommands
variable (r x y : Nat) (wd : Datum) (s : State)

theorem exec_ldk :
    exec (.ldk x y wd) s = withLane x y s fun x y => complete 0 { s with k := setLane x y wd s.k } := rfl

theorem exec_ldsh :
    exec (.ldsh r x y wd) s = withLane x y s fun x y => requireBelow r s.build.maxRounds s <|
      requireBelow wd.toNat 64 s <| complete 0 { s with ksh := setShift r x y (wd.extractLsb' 0 6) s.ksh } := rfl

theorem exec_rdsh :
    exec (.rdsh r x y) s = withLane x y s fun x y => requireBelow r s.build.maxRounds s <|
      complete ((s.shiftRow r)[x][y].setWidth 64) s := rfl

theorem exec_xorl :
    exec (.xorl x y wd) s =
      withLane x y s fun x y => complete 0 { s with a := setLane x y (s.a[x][y] ^^^ wd) s.a } := rfl

theorem exec_rdl : exec (.rdl x y) s = withLane x y s fun x y => complete s.a[x][y] s := rfl

theorem exec_rdrot :
    exec (.rdrot x y) s = withLane x y s fun x y => complete ((s.rotation x y).setWidth 64) s := rfl

end LaneCommands

/-! ### Every command keeps the invariant -/

/-- No part of the invariant speaks of `A`, `K`, `RIDX` or the answer, so that `hs` is also the invariant of a state in
which only these were written. -/
theorem exec_ends_inv {i : Instr} {s : State} (hs : s.Inv) (hi : i ≠ .init) : Ends s State.Inv (exec i s) := by
  have ⟨_, ⟨hbuf, hbufIn, hdig, hdigIn⟩, _⟩ := hs
  cases i with
  | init => exact absurd rfl hi
  | wrcr n wd => exact .requireBelow fun _ => .completes _ (inv_writeControl hs n wd)
  | rdcr n => exact .requireBelow fun _ => .completes _ hs
  | ldk x y wd => rw [exec_ldk]; exact .withLane fun _ _ => .completes _ hs
  | ldsh r x y wd =>
    rw [exec_ldsh]
    exact .withLane fun _ _ => .requireBelow fun _ => .requireBelow fun _ => .completes _ (inv_setShift hs _ _ _ _)
  | rdsh r x y => rw [exec_rdsh]; exact .withLane fun _ _ => .requireBelow fun _ => .completes _ hs
  | xorl x y wd => rw [exec_xorl]; exact .withLane fun _ _ => .completes _ hs
  | rdl x y => rw [exec_rdl]; exact .withLane fun _ _ => .completes _ hs
  | rdrot x y => rw [exec_rdrot]; exact .withLane fun _ _ => .completes _ hs
  | rdrc r => exact .requireBelow fun _ => .completes _ hs
  | kappa => exact .requireReady fun _ => .requireRound fun _ => .completes _ hs
  | cpmix => exact .requireReady fun _ => .completes _ hs
  | lrot => exact .requireReady fun _ => .completes _ hs
  | lreloc => exact .requireReady fun _ => .completes _ hs
  | nlcomb => exact .requireReady fun _ => .completes _ hs
  | cinj => exact .requireReady fun _ => .requireRound fun _ => .completes _ hs
  | round => exact .requireReady fun _ => .requireRound fun _ => .completes _ hs
  | perm => exact .requireReady fun _ => .completes _ (inv_of_gridUpdate (permute_frame s) hs)
  | wrbuf w wd =>
    refine .requireBelow fun hw => .completes _ (inv_of_bufUpdate hs (Memory.writeWord_wf hbuf w wd) ?_)
    exact Memory.writeWord_within hbufIn (by simp only [bufWords, bufBytes] at hw ⊢; omega) wd
  | wrbb off wd =>
    exact .requireBelow fun hoff => .requireBelow fun _ =>
      .completes _ (inv_of_bufUpdate hs (Memory.write_wf hbuf _ _) (Memory.write_within hbufIn hoff _))
  | rdbuf w => exact .requireBelow fun _ => .completes _ hs
  | absb => exact .requireReady fun _ => .completes _ (inv_of_gridUpdate (absorb_frame _ s) hs)
  | absf n =>
    exact .requireReady fun _ => .requireBelow fun _ => .completes _ (inv_of_gridUpdate (absorbFinal_frame n s) hs)
  | sqz => exact .requireReady fun hr => .completes _ (inv_squeeze hs hr)
  | rddig w => exact .requireBelow fun _ => .completes _ hs
  | wrdig w wd =>
    refine .requireBelow fun hw => .completes _ (inv_of_digUpdate hs (Memory.writeWord_wf hdig w wd) ?_)
    exact Memory.writeWord_within hdigIn (by simp only [Params.digWords, Params.maxOutBytes] at hw ⊢; omega) wd
  | red =>
    exact .requireReady fun _ => .requirePrecision fun hp =>
      .completes _ (inv_reduceState hs (digestInteger_lt_two_pow s.dig hp))
  | rdq l => exact .requireBelow fun _ => .completes _ hs
  | wrq l wd => exact .requireBelow fun hl => .completes _ (inv_setLimb hs hl wd)
  | recover =>
    exact .requireReady fun _ => .requirePrecision fun hp => .completes _ (inv_rcvUpdate hs (recoverInteger_lt hp))
  | rdrec l => exact .requireBelow fun _ => .completes _ hs

theorem execInit_safe {s : State} (hs : s.Inv) : SafeOutcome (execInit s) := by
  by_cases hcfg : s.configCheck = 0
  · have hbegin := inv_beginComputation hs hcfg
    rw [execInit_pass hcfg]
    exact ⟨_, rfl, hbegin⟩
  · rw [execInit_fail hcfg]
    exact ⟨_, rfl, inv_raise_configurationError hs hcfg⟩

theorem exec_safe {s : State} (hs : s.Inv) (i : Instr) : SafeOutcome (exec i s) := by
  by_cases hi : i = .init
  · subst hi; exact execInit_safe hs
  · exact (exec_ends_inv hs hi).next (fun _ hf => inv_raise_of_ne hs hf) fun _ _ h => h

/-! ### Reset, and every step -/

theorem resetOf_inv {b : Params} (hb : b.Legal) : (State.resetOf b).Inv := by
  have hrecord : (State.resetOf b).RecordOk := by simp [State.RecordOk]
  exact ⟨hb, resetOf_spacesOk b, List.length_replicate, (nomatch ·), reducerOk_of_zero hb rfl rfl rfl rfl, hrecord⟩

theorem step_safe {s : State} (hs : s.Inv) : SafeOutcome (step s) := by
  have ⟨hbuild, _⟩ := hs
  cases hhost : s.host with
  | nil => rw [step_idle hhost]; exact ⟨_, rfl, hs⟩
  | cons action rest =>
    have htaken : (s.taken rest).Inv := hs
    cases action with
    | reset => rw [step_reset hhost]; exact ⟨_, rfl, resetOf_inv hbuild⟩
    | issue cw wd =>
      cases hd : decode cw wd with
      | ok i => rw [step_issue_ok hhost hd]; exact exec_safe htaken i
      | error e =>
        rw [step_issue_illegal hhost hd]
        exact ⟨_, rfl, inv_raise_of_ne htaken (by simp)⟩

/-! ### The obligations -/

/-- Settles O9: every step goes on in a state that meets the invariant, so the next state does. -/
theorem stepKeepsInvariant : Obligations.StepKeepsInvariant := by
  intro s t hs ht
  obtain ⟨t', ht', hinv⟩ := step_safe hs
  rw [ht] at ht'
  cases ht'
  exact hinv

/-- Settles O8; the reference build is legal. -/
theorem resetMeetsInvariant : Obligations.ResetMeetsInvariant :=
  have hreset : State.reset = State.resetOf referenceBuild := rfl
  ⟨hreset ▸ resetOf_inv (by decide), fun _ => resetOf_inv⟩

/-- Settles O7: the values are those of `State.resetOf`, whatever the build and the host's further actions are. -/
theorem resetRestoresEveryRegister : Obligations.ResetRestoresEveryRegister := by
  unfold Obligations.ResetRestoresEveryRegister
  intro atReset
  have values : ∀ b rest, atReset ((State.resetOf b).taken rest) := by
    intro b rest
    have table : ∀ row ∈ (State.resetOf b).ksh, ∀ x y : Fin 5, row[x][y] = 0 := by
      intro row hrow x y
      rw [List.eq_of_mem_replicate hrow, fill_get]
    exact ⟨fun x y => ⟨fill_get 0 x y, fill_get 0 x y⟩, List.length_replicate, table, fun _ => ⟨rfl, rfl⟩, rfl, rfl,
      rfl, rfl, rfl, rfl, rfl, rfl, rfl, rfl, rfl, rfl, rfl⟩
  exact ⟨fun s rest hhost => ⟨resetStep s rest, step_reset hhost, values s.build rest, rfl, rfl⟩,
    values referenceBuild []⟩

end Sys2Proof.Machine
end

section
/-! PROOFS. `READY` and `FZ` with their writers, `STATUS` and `LIMITS` field by field (10_state.md R32 to R35, R42). -/

namespace Sys2Proof.Machine

/-! ### Which commands write `READY` and `FZ` -/

theorem writeControl_ready_of_gt {n : Nat} (hn : 3 < n) (s : State) (v : Datum) :
    (s.writeControl n v).ready = s.ready := by
  match n with
  | 4 => rfl
  | _ + 5 => rfl

/-- What a completed command `i`, not `INIT`, has left of the two bits of `s`. -/
structure State.StatusKeptBy (s : State) (i : Instr) (s' : State) : Prop where
  ready : s'.ready = s.ready ∨ ∃ n wd, i = .wrcr n wd ∧ n ≤ 3
  fz : s'.fz = s.fz ∨ i = .red

theorem statusKeptBy_of_gridUpdate {s s' : State} (i : Instr) (h : s' = { s with a := s'.a, ridx := s'.ridx }) :
    s.StatusKeptBy i s' := by
  rw [h]; exact ⟨.inl rfl, .inl rfl⟩

theorem statusKeptBy_writeControl (s : State) (n : Nat) (wd : Datum) :
    s.StatusKeptBy (.wrcr n wd) (s.writeControl n wd) := by
  refine ⟨?_, .inl (writeControl_fz s n wd)⟩
  by_cases hn : n ≤ 3
  · exact .inr ⟨n, wd, rfl, hn⟩
  · exact .inl (writeControl_ready_of_gt (by omega) s wd)

theorem statusKeptBy_squeeze (s : State) (dig : Memory) :
    s.StatusKeptBy .sqz { (squeeze s).2 with dig := dig } := by
  rw [squeeze_frame]; exact ⟨.inl rfl, .inl rfl⟩

theorem exec_ends_statusKept {i : Instr} (s : State) (hi : i ≠ .init) : Ends s (s.StatusKeptBy i) (exec i s) := by
  cases i with
  | init => exact absurd rfl hi
  | wrcr n wd => exact .requireBelow fun _ => .completes _ (statusKeptBy_writeControl s n wd)
  | rdcr n => exact .requireBelow fun _ => .completes _ ⟨.inl rfl, .inl rfl⟩
  | ldk x y wd => rw [exec_ldk]; exact .withLane fun _ _ => .completes _ ⟨.inl rfl, .inl rfl⟩
  | ldsh r x y wd =>
    rw [exec_ldsh]
    exact .withLane fun _ _ => .requireBelow fun _ => .requireBelow fun _ => .completes _ ⟨.inl rfl, .inl rfl⟩
  | rdsh r x y =>
    rw [exec_rdsh]; exact .withLane fun _ _ => .requireBelow fun _ => .completes _ ⟨.inl rfl, .inl rfl⟩
  | xorl x y wd => rw [exec_xorl]; exact .withLane fun _ _ => .completes _ ⟨.inl rfl, .inl rfl⟩
  | rdl x y => rw [exec_rdl]; exact .withLane fun _ _ => .completes _ ⟨.inl rfl, .inl rfl⟩
  | rdrot x y => rw [exec_rdrot]; exact .withLane fun _ _ => .completes _ ⟨.inl rfl, .inl rfl⟩
  | rdrc r => exact .requireBelow fun _ => .completes _ ⟨.inl rfl, .inl rfl⟩
  | kappa => exact .requireReady fun _ => .requireRound fun _ => .completes _ ⟨.inl rfl, .inl rfl⟩
  | cpmix => exact .requireReady fun _ => .completes _ ⟨.inl rfl, .inl rfl⟩
  | lrot => exact .requireReady fun _ => .completes _ ⟨.inl rfl, .inl rfl⟩
  | lreloc => exact .requireReady fun _ => .completes _ ⟨.inl rfl, .inl rfl⟩
  | nlcomb => exact .requireReady fun _ => .completes _ ⟨.inl rfl, .inl rfl⟩
  | cinj => exact .requireReady fun _ => .requireRound fun _ => .completes _ ⟨.inl rfl, .inl rfl⟩
  | round => exact .requireReady fun _ => .requireRound fun _ => .completes _ ⟨.inl rfl, .inl rfl⟩
  | perm => exact .requireReady fun _ => .completes _ (statusKeptBy_of_gridUpdate _ (permute_frame s))
  | wrbuf w wd => exact .requireBelow fun _ => .completes _ ⟨.inl rfl, .inl rfl⟩
  | wrbb off wd => exact .requireBelow fun _ => .requireBelow fun _ => .completes _ ⟨.inl rfl, .inl rfl⟩
  | rdbuf w => exact .requireBelow fun _ => .completes _ ⟨.inl rfl, .inl rfl⟩
  | absb => exact .requireReady fun _ => .completes _ (statusKeptBy_of_gridUpdate _ (absorb_frame _ s))
  | absf n =>
    exact .requireReady fun _ => .requireBelow fun _ =>
      .completes _ (statusKeptBy_of_gridUpdate _ (absorbFinal_frame n s))
  | sqz => exact .requireReady fun _ => .completes _ (statusKeptBy_squeeze s _)
  | rddig w => exact .requireBelow fun _ => .completes _ ⟨.inl rfl, .inl rfl⟩
  | wrdig w wd => exact .requireBelow fun _ => .completes _ ⟨.inl rfl, .inl rfl⟩
  | red => exact .requireReady fun _ => .requirePrecision fun _ => .completes _ ⟨.inl rfl, .inr rfl⟩
  | rdq l => exact .requireBelow fun _ => .completes _ ⟨.inl rfl, .inl rfl⟩
  | wrq l wd => exact .requireBelow fun _ => .completes _ ⟨.inl rfl, .inl rfl⟩
  | recover => exact .requireReady fun _ => .requirePrecision fun _ => .completes _ ⟨.inl rfl, .inl rfl⟩
  | rdrec l => exact .requireBelow fun _ => .completes _ ⟨.inl rfl, .inl rfl⟩

/-- Only a ConfigurationError clears `READY` (60_exceptions.md R191). -/
theorem readyAfter_of_ne {f : CommandFault} (hf : ∀ check, f ≠ .configurationError check) (ready : Bool) :
    f.readyAfter ready = ready := by
  cases f with
  | configurationError check => exact absurd rfl (hf check)
  | _ => rfl

theorem statusKeptBy_of_exec {i : Instr} {s t : State} (hi : i ≠ .init) (ht : exec i s = .next t) :
    s.StatusKeptBy i t := by
  obtain ⟨t', ht', hkept⟩ := (exec_ends_statusKept s hi).next (Q := s.StatusKeptBy i)
    (fun f hf => ⟨.inl (readyAfter_of_ne hf s.ready), .inl rfl⟩) fun _ _ h => ⟨h.ready, h.fz⟩
  rw [ht] at ht'
  cases ht'
  exact hkept

/-- Settles O14: `INIT` is a writer of both, and every other command leaves what it does not write. -/
theorem statusBitsHaveTheirWriters : Obligations.StatusBitsHaveTheirWriters := by
  intro i s t ht
  by_cases hi : i = .init
  · exact ⟨fun _ => .inl hi, fun _ => .inr hi⟩
  · obtain ⟨hready, hfz⟩ := statusKeptBy_of_exec hi ht
    exact ⟨fun h => .inr (hready.resolve_left h), fun h => .inl (hfz.resolve_left h)⟩

/-! ### A word assembled from fields -/

section Fields
variable {w : Nat} (v : BitVec w) {pos : Nat}

/-- A field reads back where it was placed. -/
theorem extractLsb'_placed (h : pos + w ≤ 64) : (v.setWidth 64 <<< pos).extractLsb' pos w = v := by
  refine BitVec.eq_of_getLsbD_eq fun i hi => ?_
  have hbit : pos + i < 64 := by omega
  simp [hi, hbit]

/-- A field leaves the bits below and above it at zero. -/
theorem extractLsb'_placed_eq_zero {start len : Nat} (h : start + len ≤ pos ∨ pos + w ≤ start) :
    (v.setWidth 64 <<< pos).extractLsb' start len = 0#len := by
  refine BitVec.eq_of_getLsbD_eq fun i hi => ?_
  have hout : pos ≤ start + i → v.getLsbD (start + i - pos) = false := fun _ =>
    BitVec.getLsbD_of_ge _ _ (by omega)
  simpa [hi] using fun _ hge _ => hout hge

end Fields

theorem statusWord_eq_fields (s : State) :
    s.statusWord = (BitVec.ofBool s.ready).setWidth 64 <<< 0 ||| (BitVec.ofBool s.fz).setWidth 64 <<< 1 |||
      s.lastErr.setWidth 64 <<< 8 ||| s.errInfo.setWidth 64 <<< 16 := by
  rw [BitVec.shiftLeft_zero]; rfl

theorem limitsWord_eq_fields (b : Params) :
    limitsWord b = (BitVec.ofNat 8 b.maxRounds).setWidth 64 <<< 0 |||
      (BitVec.ofNat 16 b.maxOutBits).setWidth 64 <<< 16 ||| (BitVec.ofNat 16 b.redMaxBits).setWidth 64 <<< 32 := by
  rw [BitVec.shiftLeft_zero]; rfl

theorem statusWord_fields (s : State) :
    s.statusWord.getLsbD 0 = s.ready ∧ s.statusWord.getLsbD 1 = s.fz ∧ s.statusWord.extractLsb' 2 6 = 0 ∧
    s.statusWord.extractLsb' 8 8 = s.lastErr ∧ s.statusWord.extractLsb' 16 8 = s.errInfo ∧
    s.statusWord.extractLsb' 24 40 = 0 := by
  refine ⟨by simp [State.statusWord], by simp [State.statusWord], ?_⟩
  simp (disch := omega) only [statusWord_eq_fields, BitVec.extractLsb'_or, extractLsb'_placed,
    extractLsb'_placed_eq_zero, BitVec.zero_or, BitVec.or_zero, BitVec.ofNat_eq_ofNat, and_self]

theorem limitsWord_fields {b : Params} (hrounds : b.maxRounds < 2 ^ 8) (hout : b.maxOutBits < 2 ^ 16)
    (hred : b.redMaxBits < 2 ^ 16) :
    ((limitsWord b).extractLsb' 0 8).toNat = b.maxRounds ∧ (limitsWord b).extractLsb' 8 8 = 0 ∧
    ((limitsWord b).extractLsb' 16 16).toNat = b.maxOutBits ∧
    ((limitsWord b).extractLsb' 32 16).toNat = b.redMaxBits ∧ (limitsWord b).extractLsb' 48 16 = 0 := by
  simp (disch := omega) only [limitsWord_eq_fields, BitVec.extractLsb'_or, extractLsb'_placed,
    extractLsb'_placed_eq_zero, BitVec.zero_or, BitVec.or_zero, BitVec.ofNat_eq_ofNat, BitVec.toNat_ofNat,
    Nat.mod_eq_of_lt, and_self]

/-- Settles O20, field by field; the reference value and the four accesses by evaluation. -/
theorem statusAndLimitsLayout : Obligations.StatusAndLimitsLayout :=
  ⟨statusWord_fields, fun _ hrounds hout hred => limitsWord_fields hrounds hout hred, by decide,
    fun _ => ⟨rfl, rfl, fun _ => ⟨rfl, rfl⟩⟩⟩

end Sys2Proof.Machine
end

section
/-! PROOFS. The key lane grid is read by the commands that run the kappa step and by no other (10_state.md R21). -/

namespace Sys2Proof.Machine

/-- The state with another key lane grid. -/
def State.withKey (s : State) (k' : Grid) : State := { s with k := k' }

/-- Two runs go on, in states that differ at most in the key lane grid. -/
def AgreeButKey (r r' : Result) : Prop := ∃ t t', r = .next t ∧ r' = .next t' ∧ t' = t.withKey t'.k

section TwoRuns
variable {s : State} {k' : Grid} {body body' : Result}

theorem AgreeButKey.fail (f : CommandFault) : AgreeButKey (fail f s) (fail f (s.withKey k')) :=
  ⟨_, _, rfl, rfl, rfl⟩

theorem AgreeButKey.complete {t t' : State} (rd : Datum) (h : t' = t.withKey t'.k) :
    AgreeButKey (complete rd t) (complete rd t') := by
  refine ⟨_, _, rfl, rfl, ?_⟩
  rw [h]
  rfl

/-! A check reads no key lane, so that both runs pass it or both take its fault. -/

theorem AgreeButKey.requireReady (h : AgreeButKey body body') :
    AgreeButKey (requireReady s body) (requireReady (s.withKey k') body') := by
  cases hr : s.ready with
  | true => rwa [requireReady_pass hr, requireReady_pass (s := s.withKey k') hr]
  | false => rw [requireReady_fail hr, requireReady_fail (s := s.withKey k') hr]; exact .fail _

theorem AgreeButKey.requireBelow {i size : Nat} (h : AgreeButKey body body') :
    AgreeButKey (requireBelow i size s body) (requireBelow i size (s.withKey k') body') := by
  by_cases hi : i < size
  · rwa [requireBelow_pass hi, requireBelow_pass hi]
  · rw [requireBelow_fail hi, requireBelow_fail hi]; exact .fail _

theorem AgreeButKey.requireRound (h : AgreeButKey body body') :
    AgreeButKey (requireRound s body) (requireRound (s.withKey k') body') := by
  by_cases hr : s.ridx.toNat < s.rounds.toNat
  · rwa [requireRound_pass hr, requireRound_pass (s := s.withKey k') hr]
  · rw [requireRound_fail hr, requireRound_fail (s := s.withKey k') hr]; exact .fail _

theorem AgreeButKey.requirePrecision (h : AgreeButKey body body') :
    AgreeButKey (requirePrecision s body) (requirePrecision (s.withKey k') body') := by
  by_cases hp : s.outBits.toNat ≤ s.build.redMaxBits
  · rwa [requirePrecision_pass hp, requirePrecision_pass (s := s.withKey k') hp]
  · rw [requirePrecision_fail hp, requirePrecision_fail (s := s.withKey k') hp]; exact .fail _

theorem AgreeButKey.withLane {x y : Nat} {onLane onLane' : Fin 5 → Fin 5 → Result}
    (h : ∀ x y, AgreeButKey (onLane x y) (onLane' x y)) :
    AgreeButKey (withLane x y s onLane) (withLane x y (s.withKey k') onLane') := by
  by_cases hl : x < 5 ∧ y < 5
  · rw [withLane_pass hl.1 hl.2, withLane_pass hl.1 hl.2]; exact h _ _
  · rw [withLane_fail hl, withLane_fail hl]; exact .fail _

end TwoRuns

theorem execInit_agreeButKey (s : State) (k' : Grid) :
    AgreeButKey (execInit s) (execInit (s.withKey k')) := by
  by_cases hcfg : s.configCheck = 0
  · rw [execInit_pass hcfg, execInit_pass (s := s.withKey k') hcfg]; exact .complete _ rfl
  · rw [execInit_fail hcfg, execInit_fail (s := s.withKey k') hcfg]; exact .fail _

theorem writeControl_withKey (s : State) (k' : Grid) (n : Nat) (v : Datum) :
    (s.withKey k').writeControl n v = (s.writeControl n v).withKey k' := by
  unfold State.writeControl
  split <;> rfl

theorem readControl_withKey (s : State) (k' : Grid) (n : Nat) :
    (s.withKey k').readControl n = s.readControl n := by
  unfold State.readControl
  split <;> rfl

theorem exec_agreeButKey {i : Instr} (s : State) (k' : Grid) (hi : i.readsKey = false) :
    AgreeButKey (exec i s) (exec i (s.withKey k')) := by
  cases i with
  | init => exact execInit_agreeButKey s k'
  | wrcr n wd =>
    refine .requireBelow (.complete _ ?_)
    rw [writeControl_withKey]; rfl
  | rdcr n =>
    refine .requireBelow ?_
    rw [readControl_withKey]
    exact .complete _ rfl
  | ldk x y wd => rw [exec_ldk, exec_ldk]; exact .withLane fun _ _ => .complete _ rfl
  | ldsh r x y wd =>
    rw [exec_ldsh, exec_ldsh]
    exact .withLane fun _ _ => .requireBelow (.requireBelow (.complete _ rfl))
  | rdsh r x y => rw [exec_rdsh, exec_rdsh]; exact .withLane fun _ _ => .requireBelow (.complete _ rfl)
  | xorl x y wd => rw [exec_xorl, exec_xorl]; exact .withLane fun _ _ => .complete _ rfl
  | rdl x y => rw [exec_rdl, exec_rdl]; exact .withLane fun _ _ => .complete _ rfl
  | rdrot x y => rw [exec_rdrot, exec_rdrot]; exact .withLane fun _ _ => .complete _ rfl
  | rdrc r => exact .requireBelow (.complete _ rfl)
  | cpmix => exact .requireReady (.complete _ rfl)
  | lrot => exact .requireReady (.complete _ rfl)
  | lreloc => exact .requireReady (.complete _ rfl)
  | nlcomb => exact .requireReady (.complete _ rfl)
  | cinj => exact .requireReady (.requireRound (.complete _ rfl))
  | wrbuf w wd => exact .requireBelow (.complete _ rfl)
  | wrbb off wd => exact .requireBelow (.requireBelow (.complete _ rfl))
  | rdbuf w => exact .requireBelow (.complete _ rfl)
  | rddig w => exact .requireBelow (.complete _ rfl)
  | wrdig w wd => exact .requireBelow (.complete _ rfl)
  | red => exact .requireReady (.requirePrecision (.complete _ rfl))
  | rdq l => exact .requireBelow (.complete _ rfl)
  | wrq l wd => exact .requireBelow (.complete _ rfl)
  | recover => exact .requireReady (.requirePrecision (.complete _ rfl))
  | rdrec l => exact .requireBelow (.complete _ rfl)
  | kappa => nomatch hi
  | round => nomatch hi
  | perm => nomatch hi
  | absb => nomatch hi
  | absf n => nomatch hi
  | sqz => nomatch hi

/-- Settles O58: the two runs make the same checks and answer from the same fields. -/
theorem keyLanesAreNotReadBack : Obligations.KeyLanesAreNotReadBack :=
  fun _ s k' hi => exec_agreeButKey s k' hi

end Sys2Proof.Machine
end

section
/-! PROOFS. The memory spaces: words of bytes, the block XORed into the grid, the digest as a big-endian integer, and
the read commands (20_memory.md R51 to R54, R58). -/

namespace Sys2Proof.Machine

/-! ### Words of bytes (00_scope.md R11, 20_memory.md R51) -/

@[simp] theorem Memory.bytes_length (m : Memory) (a n : Nat) : (m.bytes a n).length = n := by simp [Memory.bytes]

theorem Memory.bytes_getD (m : Memory) (a : Nat) {n j : Nat} (hj : j < n) :
    (m.bytes a n).getD j 0 = m.read (a + j) := by
  simp [Memory.bytes, List.getD_eq_getElem?_getD, hj]

/-- The first byte is the least significant, and the others are the number one address up. -/
theorem Memory.readLE_succ (m : Memory) (a n : Nat) :
    m.readLE a (n + 1) = (m.read a).toNat + m.readLE (a + 1) n * 256 := by
  have hplace : ∀ j ∈ List.range n,
      (m.read (a + (j + 1))).toNat * 2 ^ (8 * (j + 1)) = (m.read (a + 1 + j)).toNat * 2 ^ (8 * j) * 256 := by
    intro j _
    rw [show a + (j + 1) = a + 1 + j by omega, Nat.mul_add_one, pow_add, ← mul_assoc]
    rfl
  calc m.readLE a (n + 1)
      = (m.read a).toNat + ((List.range n).map fun j => (m.read (a + (j + 1))).toNat * 2 ^ (8 * (j + 1))).sum := by
        simp [Memory.readLE, List.range_succ_eq_map, Function.comp_def]
    _ = (m.read a).toNat + m.readLE (a + 1) n * 256 := by
        rw [List.map_congr_left hplace, List.sum_map_mul_right, Memory.readLE]

/-- The base-256 digit of weight `256^k` is byte `k`. -/
theorem Memory.readLE_digit (m : Memory) {n k : Nat} (hk : k < n) :
    ∀ a, m.readLE a n / 256 ^ k % 256 = (m.read (a + k)).toNat := by
  induction n generalizing k with
  | zero => exact absurd hk (Nat.not_lt_zero k)
  | succ n ih =>
    intro a
    have hbyte := (m.read a).isLt
    rw [Memory.readLE_succ]
    cases k with
    | zero => rw [pow_zero, Nat.div_one, Nat.add_zero a, Nat.add_mul_mod_self_right, Nat.mod_eq_of_lt hbyte]
    | succ k =>
      have hdrop : ((m.read a).toNat + m.readLE (a + 1) n * 256) / 256 = m.readLE (a + 1) n := by omega
      rw [pow_succ', ← Nat.div_div_eq_div_mul, hdrop, ih (by omega), Nat.add_right_comm, Nat.add_assoc]

/-- Byte `k` of word `i` of a byte space is the byte at `8i + k`. -/
theorem Memory.readWord_byte (m : Memory) (i : Nat) {k : Nat} (hk : k < 8) :
    (m.readWord i).extractLsb' (8 * k) 8 = m.read (8 * i + k) := by
  have hsplit : 2 ^ 64 = 256 ^ k * 256 ^ (8 - k) := by
    rw [← pow_add, Nat.add_sub_cancel' hk.le]
    rfl
  have hdvd : 256 ∣ 256 ^ (8 - k) := dvd_pow_self 256 (by omega)
  apply BitVec.eq_of_toNat_eq
  calc ((m.readWord i).extractLsb' (8 * k) 8).toNat
      = m.readLE (8 * i) 8 % 2 ^ 64 / 256 ^ k % 256 := by
        rw [BitVec.extractLsb'_toNat, Memory.readWord, BitVec.toNat_ofNat, Nat.shiftRight_eq_div_pow, pow_mul]
        rfl
    _ = m.readLE (8 * i) 8 / 256 ^ k % 256 := by
        rw [hsplit, Nat.mod_mul_right_div_self, Nat.mod_mod_of_dvd _ hdvd]
    _ = (m.read (8 * i + k)).toNat := m.readLE_digit hk (8 * i)

/-! ### The block XORed into the byte view (20_memory.md R52, 42_sponge.md R134) -/

/-- The bytes of the run are XORed into the places from `j` on, one each, and the other places are left. -/
theorem stateByte_xorBytes (o : LaneOrder) {bs : List Byte} :
    ∀ {j : Nat} (a : Grid) {j' : Nat}, j + bs.length ≤ 200 → j' < 200 →
      stateByte o (xorBytes o j bs a) j' =
        if j ≤ j' ∧ j' < j + bs.length then stateByte o a j' ^^^ bs.getD (j' - j) 0 else stateByte o a j' := by
  induction bs with
  | nil =>
    intro j a j' _ _
    rw [if_neg (by simp only [List.length_nil]; omega)]
    rfl
  | cons b bs ih =>
    intro j a j' hlen hj'
    simp only [List.length_cons] at hlen ⊢
    rw [xorBytes, ih _ (by omega) hj', stateByte_xorStateByte o a b (by omega) hj']
    rcases lt_trichotomy j' j with hlt | rfl | hgt
    · rw [if_neg (by omega), if_neg (by omega), if_neg (by omega)]
    · simp
    · have hidx : j' - j = j' - (j + 1) + 1 := by omega
      rw [if_neg (show ¬ j' = j by omega), hidx, List.getD_cons_succ]
      exact if_congr (by omega) rfl rfl

/-- Absorbing `rb` bytes of a byte space: byte `j` of the view takes byte `j` of the space. -/
theorem stateByte_xorBytes_bytes (o : LaneOrder) (a : Grid) (buf : Memory) {rb j : Nat} (hrb : rb ≤ 200)
    (hj : j < 200) :
    stateByte o (xorBytes o 0 (buf.bytes 0 rb) a) j =
      if j < rb then stateByte o a j ^^^ buf.read j else stateByte o a j := by
  rw [stateByte_xorBytes o a (by simpa using hrb) hj, Memory.bytes_length, Nat.zero_add, Nat.sub_zero]
  by_cases h : j < rb
  · rw [if_pos ⟨Nat.zero_le j, h⟩, if_pos h, buf.bytes_getD 0 h, Nat.zero_add]
  · rw [if_neg fun c => h c.2, if_neg h]

/-- With a rate of whole lanes, the eight bytes of a lane are all below the rate or all beyond it. -/
theorem lane_xorBytes_bytes (o : LaneOrder) (a : Grid) (buf : Memory) {rb i : Nat} (hrb : rb ≤ 200)
    (hwhole : rb % 8 = 0) (hi : i < 25) :
    (xorBytes o 0 (buf.bytes 0 rb) a)[(lanePos o i).1][(lanePos o i).2] =
      if i < rb / 8 then a[(lanePos o i).1][(lanePos o i).2] ^^^ buf.readWord i
      else a[(lanePos o i).1][(lanePos o i).2] := by
  refine lane_eq_of_bytes fun k hk => ?_
  rw [← stateByte_lane o _ i hk, stateByte_xorBytes_bytes o a buf hrb (by omega), stateByte_lane o a i hk]
  by_cases h : i < rb / 8
  · rw [if_pos h, if_pos (by omega), BitVec.extractLsb'_xor, buf.readWord_byte i hk]
  · rw [if_neg h, if_neg (by omega)]

/-- Settles O45: the clause on bytes first, from which the clause on lanes follows byte by byte. -/
theorem absorbXorsBufferWords : Obligations.AbsorbXorsBufferWords :=
  ⟨fun o a buf _ _ hrb hwhole hi => lane_xorBytes_bytes o a buf hrb hwhole hi,
    fun o a buf _ _ hrb hj => stateByte_xorBytes_bytes o a buf hrb hj⟩

/-! ### The digest as a big-endian integer (20_memory.md R54) -/

/-- Byte `j` is the digit that `n-1-j` further bytes have moved up. -/
theorem digestInteger_digit (dig : Memory) {n j : Nat} (hj : j < n) :
    digestInteger dig n / 256 ^ (n - 1 - j) % 256 = (dig.read j).toNat := by
  induction n with
  | zero => exact absurd hj (Nat.not_lt_zero j)
  | succ n ih =>
    have hbyte := (dig.read n).isLt
    rw [digestInteger_succ]
    rcases Nat.lt_succ_iff_lt_or_eq.mp hj with hlt | rfl
    · have hplace : n + 1 - 1 - j = n - 1 - j + 1 := by omega
      have hdrop : (digestInteger dig n * 256 + (dig.read n).toNat) / 256 = digestInteger dig n := by omega
      rw [hplace, pow_succ', ← Nat.div_div_eq_div_mul, hdrop, ih hlt]
    · rw [Nat.add_sub_cancel, Nat.sub_self, pow_zero, Nat.div_one]
      omega

/-- Settles O52: the digits, and the bound of `8n` bits. -/
theorem digestIntegerIsBigEndian : Obligations.DigestIntegerIsBigEndian := by
  intro dig n
  refine ⟨?_, fun j hj => digestInteger_digit dig hj⟩
  rw [pow_mul]
  exact digestInteger_lt dig n

/-! ### The read commands (20_memory.md R58) -/

/-- Two runs that read alike: both take the same fault, or both complete with the same datum, each in the state it was
issued in. -/
inductive ReadAlike (s s' : State) : Result → Result → Prop where
  | faults (f : CommandFault) : ReadAlike s s' (fail f s) (fail f s')
  | completes (rd : Datum) : ReadAlike s s' (complete rd s) (complete rd s')

section Checks
variable {s s' : State} {body body' : Result}

theorem ReadAlike.requireBelow {i size : Nat} (h : ReadAlike s s' body body') :
    ReadAlike s s' (requireBelow i size s body) (requireBelow i size s' body') := by
  by_cases hi : i < size
  · rwa [requireBelow_pass hi, requireBelow_pass hi]
  · rw [requireBelow_fail hi, requireBelow_fail hi]; exact .faults _

theorem ReadAlike.withLane {x y : Nat} {onLane onLane' : Fin 5 → Fin 5 → Result}
    (h : ∀ x y, ReadAlike s s' (onLane x y) (onLane' x y)) :
    ReadAlike s s' (withLane x y s onLane) (withLane x y s' onLane') := by
  by_cases hl : x < 5 ∧ y < 5
  · rw [withLane_pass hl.1 hl.2, withLane_pass hl.1 hl.2]; exact h _ _
  · rw [withLane_fail hl, withLane_fail hl]; exact .faults _

end Checks

theorem readControl_setAnswer (s : State) (ans : Option Answer) (n : Nat) :
    ({ s with answer := ans } : State).readControl n = s.readControl n := by
  unfold State.readControl
  split <;> rfl

/-- A read command looks at no answer given before. -/
theorem exec_readAlike {i : Instr} (hi : i.isRead = true) (s : State) (ans : Option Answer) :
    ReadAlike s { s with answer := ans } (exec i s) (exec i { s with answer := ans }) := by
  cases i with
  | rdcr n =>
    refine .requireBelow ?_
    rw [readControl_setAnswer]
    exact .completes _
  | rdsh r x y => rw [exec_rdsh, exec_rdsh]; exact .withLane fun _ _ => .requireBelow (.completes _)
  | rdl x y => rw [exec_rdl, exec_rdl]; exact .withLane fun _ _ => .completes _
  | rdrot x y => rw [exec_rdrot, exec_rdrot]; exact .withLane fun _ _ => .completes _
  | rdrc r => exact .requireBelow (.completes _)
  | rdbuf w => exact .requireBelow (.completes _)
  | rddig w => exact .requireBelow (.completes _)
  | rdq l => exact .requireBelow (.completes _)
  | rdrec l => exact .requireBelow (.completes _)
  | _ => nomatch hi

/-- Settles O15: the second run differs from the first in the answer it starts from, which no read command looks
at. -/
theorem readsHaveNoSideEffect : Obligations.ReadsHaveNoSideEffect := by
  intro i s t rd hi ht hans
  have hruns := exec_readAlike hi s (some ⟨0x00, rd⟩)
  generalize hfirst : exec i s = first at hruns
  generalize hsecond : exec i { s with answer := some ⟨0x00, rd⟩ } = second at hruns
  rw [hfirst] at ht
  cases hruns with
  | faults f =>
    rw [fail_eq_next.mp ht, raise_answer] at hans
    exact absurd (congrArg Answer.st (Option.some.inj hans)) (code_ne_ok f)
  | completes rd' =>
    have hnext := complete_eq_next.mp ht
    obtain rfl : rd' = rd := by simpa [hnext] using hans
    subst hnext
    exact ⟨rfl, hsecond⟩

end Sys2Proof.Machine
end

section
/-! PROOFS. The encoding: the pieces of a command word, the word each format spells, decoding and encoding as inverses,
the opcode table row by row, and the step of a decoded and of an illegal word (30_encoding.md R70 to R76). -/

namespace Sys2Proof

/-! ### The pieces of a command word (30_encoding.md R71) -/

/-- Two words put together of pieces of the same widths agree exactly when their pieces do. -/
theorem append_eq_append_iff {m n : Nat} {a c : BitVec m} {b d : BitVec n} :
    a ++ b = c ++ d ↔ a = c ∧ b = d := by
  refine ⟨fun h => ⟨?_, ?_⟩, fun ⟨ha, hb⟩ => by rw [ha, hb]⟩
  · rw [← BitVec.extractLsb'_append_eq_left (a := a) (b := b), h, BitVec.extractLsb'_append_eq_left]
  · rw [← BitVec.extractLsb'_append_eq_right (a := a) (b := b), h, BitVec.extractLsb'_append_eq_right]

/-- A command word from its seven pieces: `OPC`, `IDX`, `X` and `Y`, and between them the pieces `r` (bits 15:8),
`s` (bit 7) and `t` (bit 3) that no format gives a meaning (30_encoding.md R71). -/
def wordOfPieces (o i r : BitVec 8) (s : BitVec 1) (x : BitVec 3) (t : BitVec 1) (y : BitVec 3) : CommandWord :=
  o ++ i ++ r ++ s ++ x ++ t ++ y

theorem commandWord_eq_wordOfPieces (opc idx x y : Nat) :
    commandWord opc idx x y =
      wordOfPieces (BitVec.ofNat 8 opc) (BitVec.ofNat 8 idx) 0#8 0#1 (BitVec.ofNat 3 x) 0#1 (BitVec.ofNat 3 y) := rfl

/-- Every word has its seven pieces. -/
theorem exists_eq_wordOfPieces (cw : CommandWord) : ∃ o i r s x t y, cw = wordOfPieces o i r s x t y := by
  refine ⟨cw.extractLsb' 24 8, cw.extractLsb' 16 8, cw.extractLsb' 8 8, cw.extractLsb' 7 1, cw.extractLsb' 4 3,
    cw.extractLsb' 3 1, cw.extractLsb' 0 3, ?_⟩
  unfold wordOfPieces
  iterate 6 rw [BitVec.extractLsb'_append_extractLsb'_eq_extractLsb' (by rfl)]
  exact BitVec.extractLsb'_eq_self.symm

section Pieces
variable (o i r o' i' r' : BitVec 8) (s s' : BitVec 1) (x x' : BitVec 3) (t t' : BitVec 1) (y y' : BitVec 3)

theorem wordOfPieces_inj :
    wordOfPieces o i r s x t y = wordOfPieces o' i' r' s' x' t' y' ↔
      o = o' ∧ i = i' ∧ r = r' ∧ s = s' ∧ x = x' ∧ t = t' ∧ y = y' := by
  unfold wordOfPieces
  iterate 6 rw [append_eq_append_iff]
  simp only [and_assoc]

theorem wordOfPieces_and :
    wordOfPieces o i r s x t y &&& wordOfPieces o' i' r' s' x' t' y' =
      wordOfPieces (o &&& o') (i &&& i') (r &&& r') (s &&& s') (x &&& x') (t &&& t') (y &&& y') := by
  unfold wordOfPieces
  iterate 6 rw [BitVec.and_append]

@[simp] theorem opcOf_wordOfPieces : opcOf (wordOfPieces o i r s x t y) = o.toNat := by
  unfold opcOf wordOfPieces
  simp (disch := omega) only [BitVec.extractLsb'_append_eq_of_le]
  simp

@[simp] theorem idxOf_wordOfPieces : idxOf (wordOfPieces o i r s x t y) = i.toNat := by
  unfold idxOf wordOfPieces
  simp (disch := omega) only [BitVec.extractLsb'_append_eq_of_le, BitVec.extractLsb'_append_eq_of_add_le]
  simp

@[simp] theorem xOf_wordOfPieces : xOf (wordOfPieces o i r s x t y) = x.toNat := by
  unfold xOf wordOfPieces
  simp (disch := omega) only [BitVec.extractLsb'_append_eq_of_le, BitVec.extractLsb'_append_eq_of_add_le]
  simp

@[simp] theorem yOf_wordOfPieces : yOf (wordOfPieces o i r s x t y) = y.toNat := by
  unfold yOf wordOfPieces
  rw [BitVec.extractLsb'_append_eq_right]

end Pieces

theorem opcOf_lt (cw : CommandWord) : opcOf cw < 256 := BitVec.isLt _
theorem idxOf_lt (cw : CommandWord) : idxOf cw < 256 := BitVec.isLt _
theorem xOf_lt (cw : CommandWord) : xOf cw < 8 := BitVec.isLt _
theorem yOf_lt (cw : CommandWord) : yOf cw < 8 := BitVec.isLt _

/-! ### The word of a row (30_encoding.md R72) -/

/-- The one word of a row with the given operands: the fields its format leaves unused are 0. -/
def Format.word (f : Format) (opc idx x y : Nat) : CommandWord :=
  match f with
  | .n => commandWord opc 0 0 0
  | .i => commandWord opc idx 0 0
  | .l => commandWord opc 0 x y
  | .rl => commandWord opc idx x y

/-- Which pieces each mask fixes. -/
theorem Format.mask_eq_wordOfPieces (f : Format) :
    f.mask = wordOfPieces (.allOnes 8) (if f = .i ∨ f = .rl then 0#8 else .allOnes 8) (.allOnes 8) (.allOnes 1)
      (if f = .l ∨ f = .rl then 0#3 else .allOnes 3) (.allOnes 1) (if f = .l ∨ f = .rl then 0#3 else .allOnes 3) := by
  cases f <;> rfl

/-- `match = OPC * 2^24` is the word with every other field 0. -/
theorem match_eq_commandWord (opc : Nat) : BitVec.ofNat 32 opc <<< 24 = commandWord opc 0 0 0 := by
  apply BitVec.eq_of_toNat_eq
  unfold commandWord
  iterate 6 rw [BitVec.toNat_append]
  simp [Nat.shiftLeft_eq]
  omega

/-- A word matches a row of its own opcode exactly when it is the row's word with its own operands. Piece by piece both
sides say that the pieces which the format leaves unused are zero. -/
theorem and_mask_eq_match_iff (cw : CommandWord) (f : Format) :
    cw &&& f.mask = BitVec.ofNat 32 (opcOf cw) <<< 24 ↔ f.word (opcOf cw) (idxOf cw) (xOf cw) (yOf cw) = cw := by
  obtain ⟨o, i, r, s, x, t, y, rfl⟩ := exists_eq_wordOfPieces cw
  rw [match_eq_commandWord, f.mask_eq_wordOfPieces, wordOfPieces_and]
  cases f <;>
    simp [-BitVec.reduceAllOnes, Format.word, commandWord_eq_wordOfPieces, wordOfPieces_inj, eq_comm (a := 0#_)]

/-- The mask of every format fixes the whole opcode, so a word matches rows of its own opcode only. -/
theorem opcOf_eq_of_match {cw : CommandWord} {f : Format} {opc : Nat} (hopc : opc < 256)
    (h : cw &&& f.mask = BitVec.ofNat 32 opc <<< 24) : opcOf cw = opc := by
  obtain ⟨o, i, r, s, x, t, y, rfl⟩ := exists_eq_wordOfPieces cw
  rw [match_eq_commandWord, f.mask_eq_wordOfPieces, wordOfPieces_and, commandWord_eq_wordOfPieces,
    wordOfPieces_inj] at h
  obtain ⟨ho, -⟩ := h
  rw [opcOf_wordOfPieces, ← BitVec.and_allOnes (x := o), ho, BitVec.toNat_ofNat, Nat.mod_eq_of_lt hopc]

/-! ### The rows of the opcode table (30_encoding.md R74) -/

/-- What a row says of its command: the opcode is its own, its word is the word of the row, its datum is the row's. -/
theorem encode_of_rowOf {opc idx x y : Nat} {wd : Datum} {f : Format} {i : Instr}
    (h : rowOf opc idx x y wd = some (f, i)) :
    i.opcode = opc ∧ (encode i).1 = f.word opc idx x y ∧ (i.usesDatum = true → (encode i).2 = wd) := by
  unfold rowOf at h
  split at h <;> cases h <;> simp [Instr.opcode, encode, Format.word, Instr.usesDatum]

/-- Operands that fit their fields make a well-formed command of every row. -/
theorem wellFormed_of_rowOf {opc idx x y : Nat} {wd : Datum} {f : Format} {i : Instr}
    (h : rowOf opc idx x y wd = some (f, i)) (hidx : fitsIdx idx) (hlane : fitsLane x y) : i.wellFormed = true := by
  unfold rowOf at h
  split at h <;> cases h <;> simp [Instr.wellFormed, hidx, hlane]

/-- The row of a word that is built from an opcode and operands that fit their fields is the row of these. -/
theorem rowOf_commandWord {opc idx x y : Nat} (wd : Datum) (hopc : opc < 256) (hidx : fitsIdx idx)
    (hlane : fitsLane x y) :
    let cw := commandWord opc idx x y
    rowOf (opcOf cw) (idxOf cw) (xOf cw) (yOf cw) wd = rowOf opc idx x y wd := by
  obtain ⟨hx, hy⟩ := hlane
  simp only [opcOf_commandWord hopc, idxOf_commandWord hidx, xOf_commandWord hx, yOf_commandWord hy]

/-- The fields of an encoded command select its own row, with its own operands. -/
theorem exists_rowOf_encode {i : Instr} (hi : i.wellFormed = true) :
    let cw := (encode i).1
    ∃ f, rowOf (opcOf cw) (idxOf cw) (xOf cw) (yOf cw) (encode i).2 = some (f, i) := by
  have zeroIdx : fitsIdx 0 := by decide
  have zeroLane : fitsLane 0 0 := by decide
  cases i with
  | init | kappa | cpmix | lrot | lreloc | nlcomb | cinj | round | perm | absb | sqz | red | recover =>
    exact ⟨.n, rowOf_commandWord _ (Instr.opcode_lt _) zeroIdx zeroLane⟩
  | wrcr n | rdcr n | rdrc n | wrbuf n | wrbb n | rdbuf n | absf n | rddig n | wrdig n | rdq n | wrq n | rdrec n =>
    exact ⟨.i, rowOf_commandWord _ (Instr.opcode_lt _) (of_decide_eq_true hi) zeroLane⟩
  | ldk x y | xorl x y | rdl x y | rdrot x y =>
    exact ⟨.l, rowOf_commandWord _ (Instr.opcode_lt _) zeroIdx (of_decide_eq_true hi)⟩
  | ldsh r x y | rdsh r x y =>
    obtain ⟨hidx, hlane⟩ := of_decide_eq_true hi
    exact ⟨.rl, rowOf_commandWord _ (Instr.opcode_lt _) hidx hlane⟩

/-- The opcodes the table leaves unassigned (30_encoding.md R75). -/
theorem rowOf_eq_none_iff {opc idx x y : Nat} {wd : Datum} :
    rowOf opc idx x y wd = none ↔
      opc = 0 ∨ (0x0B ≤ opc ∧ opc ≤ 0x0F) ∨ (0x18 ≤ opc ∧ opc ≤ 0x1F) ∨ (0x28 ≤ opc ∧ opc ≤ 0x2F) ∨ 0x35 ≤ opc := by
  unfold rowOf
  split
  case h_32 =>
    simp only [imp_false, true_iff] at *
    omega
  all_goals simp

theorem lt_of_rowOf_eq_some {opc idx x y : Nat} {wd : Datum} {row : Format × Instr}
    (h : rowOf opc idx x y wd = some row) : opc < 0x35 := by
  by_contra hge
  have hnone : rowOf opc idx x y wd = none := rowOf_eq_none_iff.mpr (by omega)
  rw [hnone] at h
  cases h

/-- The `match` and `mask` columns, computed from the rows: `match = OPC * 2^24` and the mask of the format, whatever
the operands (30_encoding.md R72). -/
theorem encodingRows_eq_filterMap (idx x y : Nat) (wd : Datum) :
    encodingRows = (List.range 0x35).filterMap fun opc =>
      (rowOf opc idx x y wd).map fun row => (BitVec.ofNat 32 opc <<< 24, row.1.mask) := by
  rfl

theorem mem_encodingRows_iff {row : CommandWord × CommandWord} (idx x y : Nat) (wd : Datum) :
    row ∈ encodingRows ↔
      ∃ opc f i, rowOf opc idx x y wd = some (f, i) ∧ row = (BitVec.ofNat 32 opc <<< 24, f.mask) := by
  rw [encodingRows_eq_filterMap idx x y wd, List.mem_filterMap]
  constructor
  · rintro ⟨opc, -, hrow⟩
    obtain ⟨⟨f, i⟩, hfi, rfl⟩ := Option.map_eq_some_iff.mp hrow
    exact ⟨opc, f, i, hfi, rfl⟩
  · rintro ⟨opc, f, i, hfi, rfl⟩
    exact ⟨opc, List.mem_range.mpr (lt_of_rowOf_eq_some hfi), Option.map_eq_some_iff.mpr ⟨(f, i), hfi, rfl⟩⟩

/-! ### What decodes, and what is refused (30_encoding.md R75, R76) -/

section Decode
variable {cw : CommandWord} {wd : Datum} {i : Instr}

theorem decode_eq_ok_iff :
    decode cw wd = .ok i ↔ ∃ f, rowOf (opcOf cw) (idxOf cw) (xOf cw) (yOf cw) wd = some (f, i) ∧
      cw &&& f.mask = BitVec.ofNat 32 (opcOf cw) <<< 24 := by
  unfold decode
  cases rowOf (opcOf cw) (idxOf cw) (xOf cw) (yOf cw) wd with
  | none => simp
  | some row =>
    obtain ⟨f, j⟩ := row
    simp only [Option.some.injEq, Prod.mk.injEq]
    by_cases hmatch : cw &&& f.mask = BitVec.ofNat 32 (opcOf cw) <<< 24
    · simp [hmatch]
    · simp [hmatch]

theorem decode_eq_unassigned_iff :
    decode cw wd = .error .unassignedOpcode ↔ rowOf (opcOf cw) (idxOf cw) (xOf cw) (yOf cw) wd = none := by
  unfold decode
  cases rowOf (opcOf cw) (idxOf cw) (xOf cw) (yOf cw) wd with
  | none => simp
  | some row =>
    dsimp only
    split <;> simp

/-- A word decodes to a command exactly when the row of its fields is that command's and the command encodes to the
word. -/
theorem decode_eq_ok_iff_encode :
    decode cw wd = .ok i ↔
      ∃ f, rowOf (opcOf cw) (idxOf cw) (xOf cw) (yOf cw) wd = some (f, i) ∧ (encode i).1 = cw := by
  rw [decode_eq_ok_iff]
  refine exists_congr fun f => and_congr_right fun hrow => ?_
  obtain ⟨-, hword, -⟩ := encode_of_rowOf hrow
  rw [hword, and_mask_eq_match_iff]

/-- A word matches a row of the table exactly when it decodes by that row. -/
theorem mem_encodingRows_and_match_iff {row : CommandWord × CommandWord} (wd : Datum) :
    row ∈ encodingRows ∧ cw &&& row.2 = row.1 ↔
      ∃ f i, rowOf (opcOf cw) (idxOf cw) (xOf cw) (yOf cw) wd = some (f, i) ∧ decode cw wd = .ok i ∧
        row = (BitVec.ofNat 32 (opcOf cw) <<< 24, f.mask) := by
  rw [mem_encodingRows_iff (idxOf cw) (xOf cw) (yOf cw) wd]
  constructor
  · rintro ⟨⟨opc, f, i, hrow, rfl⟩, hmatch⟩
    have hopc : opc < 256 := (lt_of_rowOf_eq_some hrow).trans (by decide)
    obtain rfl : opcOf cw = opc := opcOf_eq_of_match hopc hmatch
    exact ⟨f, i, hrow, decode_eq_ok_iff.mpr ⟨f, hrow, hmatch⟩, rfl⟩
  · rintro ⟨f, i, hrow, hdec, rfl⟩
    obtain ⟨f', hrow', hmatch⟩ := decode_eq_ok_iff.mp hdec
    obtain rfl : f = f' := by simpa [hrow] using hrow'
    exact ⟨⟨_, f, i, hrow, rfl⟩, hmatch⟩

end Decode

/-! ### The obligations on the encoding -/

/-- Settles O1: the fields of the encoded word select the command's own row, and the word is that row's word. -/
theorem decodeOfEncode : Obligations.DecodeOfEncode := by
  intro i hi
  obtain ⟨f, hrow⟩ := exists_rowOf_encode hi
  exact decode_eq_ok_iff_encode.mpr ⟨f, hrow, rfl⟩

/-- Settles O2: what decodes is the command of the row of the word's own fields. -/
theorem encodeOfDecode : Obligations.EncodeOfDecode := by
  intro cw wd i hdec
  obtain ⟨f, hrow, hword⟩ := decode_eq_ok_iff_encode.mp hdec
  obtain ⟨-, -, hdatum⟩ := encode_of_rowOf hrow
  exact ⟨wellFormed_of_rowOf hrow (idxOf_lt cw) ⟨xOf_lt cw, yOf_lt cw⟩, hword, hdatum⟩

/-- Settles O3: the rows a word matches are those by which it decodes, and the word's fields select one row at most. -/
theorem decodeMatchesExactlyOneRow : Obligations.DecodeMatchesExactlyOneRow := by
  refine fun cw wd => ⟨fun i hdec => ?_, fun e herr row hrow hmatch => ?_⟩
  · obtain ⟨f, hf, hmatch⟩ := decode_eq_ok_iff.mp hdec
    obtain ⟨hopcode, -, -⟩ := encode_of_rowOf hf
    obtain ⟨hmem, -⟩ := (mem_encodingRows_and_match_iff wd).mpr ⟨f, i, hf, hdec, rfl⟩
    refine ⟨_, hmem, hmatch, by rw [hopcode], fun other hother hmatch' => ?_⟩
    obtain ⟨f', i', hf', -, rfl⟩ := (mem_encodingRows_and_match_iff wd).mp ⟨hother, hmatch'⟩
    obtain ⟨rfl, rfl⟩ : f = f' ∧ i = i' := by simpa [hf] using hf'
    rfl
  · obtain ⟨f, i, -, hdec, -⟩ := (mem_encodingRows_and_match_iff wd).mp ⟨hrow, hmatch⟩
    rw [hdec] at herr
    cases herr

/-- Settles O4, by running the decoder on the ten words. -/
theorem sampleWordsDecode : Obligations.SampleWordsDecode := by
  unfold Obligations.SampleWordsDecode
  decide

end Sys2Proof

namespace Sys2Proof.Machine

/-! ### The obligations on the step -/

/-- A numbered word decodes as the transaction it numbers (log 6). -/
theorem decode_of_decodeTableWord {nbits w : Nat} {i : Instr} (h : decodeTableWord nbits w = some i) :
    decode (transactionOf nbits w).1 (transactionOf nbits w).2 = .ok i := by
  unfold decodeTableWord at h
  split at h
  next j hj => rw [hj, Option.some.inj h]
  next => cases h

/-- Settles O5: taking the action that `withFetchWord` placed gives the state it was placed in. -/
theorem stepRunsDecodedCommand : Obligations.StepRunsDecodedCommand :=
  ⟨fun _ _ _ _ _ hhost hdec _ => step_issue_ok hhost hdec,
    fun _ _ _ _ hword => step_issue_ok rfl (decode_of_decodeTableWord hword)⟩

/-- Settles O6: an illegal word takes one fault, which is no failing `INIT`, and an opcode is unassigned when no row
has it. -/
theorem illegalWordChangesOnlyTheRecord : Obligations.IllegalWordChangesOnlyTheRecord :=
  ⟨fun _ _ _ _ _ hhost herr => step_issue_illegal hhost herr,
    fun _ _ => decode_eq_unassigned_iff.trans rowOf_eq_none_iff⟩

end Sys2Proof.Machine
end

section
/-! PROOFS. The state access commands: the words that spell them, the configuration check, and what each command reads,
writes, leaves and refuses (40_state_access.md R90 to R100). -/

namespace Sys2Proof

/-! ### The word of a command, format by format (30_encoding.md R72) -/

/-- A word whose format leaves only zero fields unused decodes by the row of its fields. -/
theorem decode_commandWord {opc idx x y : Nat} {wd : Datum} {f : Format} {i : Instr}
    (hrow : rowOf opc idx x y wd = some (f, i)) (hidx : fitsIdx idx) (hlane : fitsLane x y)
    (hword : f.word opc idx x y = commandWord opc idx x y) :
    decode (commandWord opc idx x y) wd = .ok i := by
  have hopc : opc < 256 := (lt_of_rowOf_eq_some hrow).trans (by decide)
  obtain ⟨-, hencode, -⟩ := encode_of_rowOf hrow
  exact decode_eq_ok_iff_encode.mpr
    ⟨f, (rowOf_commandWord wd hopc hidx hlane).trans hrow, hencode.trans hword⟩

theorem append_zeros {n : Nat} (v : BitVec n) (j k : Nat) :
    v ++ 0#j ++ 0#k = (v ++ 0#(j + k)).cast (Nat.add_assoc n j k).symm := by
  rw [BitVec.append_assoc, BitVec.zero_append_zero]

section Formats
variable {o idx : BitVec 8} {x y : BitVec 3} {wd : Datum} {i : Instr}

/-! The patterns below write adjoining zero fields as one. -/

theorem commandWord_toNat (o idx : BitVec 8) (x y : BitVec 3) :
    commandWord o.toNat idx.toNat x.toNat y.toNat = o ++ idx ++ 0#9 ++ x ++ 0#1 ++ y := by
  simp only [commandWord, BitVec.ofNat_toNat, BitVec.setWidth_eq, append_zeros, BitVec.cast_eq]

theorem decode_formatI (hrow : rowOf o.toNat idx.toNat 0 0 wd = some (.i, i)) :
    decode (o ++ idx ++ 0#16) wd = .ok i := by
  have hzeros : o ++ idx ++ 0#9 ++ 0#3 ++ 0#1 ++ 0#3 = o ++ idx ++ 0#16 := by
    simp only [append_zeros, BitVec.cast_eq]
  rw [← hzeros, ← commandWord_toNat]
  exact decode_commandWord hrow idx.isLt (by decide) rfl

theorem decode_formatL (hrow : rowOf o.toNat 0 x.toNat y.toNat wd = some (.l, i)) :
    decode (o ++ 0#17 ++ x ++ 0#1 ++ y) wd = .ok i := by
  have hzeros : o ++ 0#8 ++ 0#9 = o ++ 0#17 := by simp only [append_zeros, BitVec.cast_eq]
  rw [← hzeros, ← commandWord_toNat]
  exact decode_commandWord hrow (by decide) ⟨x.isLt, y.isLt⟩ rfl

theorem decode_formatRL (hrow : rowOf o.toNat idx.toNat x.toNat y.toNat wd = some (.rl, i)) :
    decode (o ++ idx ++ 0#9 ++ x ++ 0#1 ++ y) wd = .ok i := by
  rw [← commandWord_toNat]
  exact decode_commandWord hrow idx.isLt ⟨x.isLt, y.isLt⟩ rfl

end Formats

end Sys2Proof

namespace Sys2Proof.Machine

/-! ### The first failing test of several (40_state_access.md R91) -/

/-- `e` is the number of the first of the failures `fails` that holds, counted from 1, or 0 when none does. -/
def IsFirstFailure (fails : List Prop) (e : Nat) : Prop :=
  e ≤ fails.length ∧ (e = 0 ↔ ∀ p ∈ fails, ¬p) ∧
    ∀ n, (h : n < fails.length) → (e = n + 1 ↔ fails[n] ∧ ∀ p ∈ fails.take n, ¬p)

section FirstFailure
variable {fails : List Prop}

theorem getElem_mem_take {m n : Nat} (hm : m < fails.length) (hlt : m < n) : fails[m] ∈ fails.take n :=
  List.mem_take_iff_getElem.mpr ⟨m, by omega, rfl⟩

theorem isFirstFailure_zero (hnone : ∀ p ∈ fails, ¬p) : IsFirstFailure fails 0 :=
  ⟨Nat.zero_le _, ⟨fun _ => hnone, fun _ => rfl⟩,
    fun _ hn => ⟨(nomatch ·), fun ⟨hfail, _⟩ => absurd hfail (hnone _ (List.getElem_mem hn))⟩⟩

/-- No two tests are both the first to fail: of two that fail, the earlier is among those before the later. -/
theorem isFirstFailure_succ (k : Nat) (hk : k < fails.length) (hfail : fails[k]) (hbefore : ∀ p ∈ fails.take k, ¬p) :
    IsFirstFailure fails (k + 1) := by
  refine ⟨hk, ⟨(nomatch ·), fun hnone => absurd hfail (hnone _ (List.getElem_mem hk))⟩, fun n hn => ⟨?_, ?_⟩⟩
  · intro h
    obtain rfl : k = n := Nat.succ.inj h
    exact ⟨hfail, hbefore⟩
  · rintro ⟨hfail', hbefore'⟩
    rcases lt_trichotomy k n with hlt | rfl | hgt
    · exact absurd hfail (hbefore' _ (getElem_mem_take hk hlt))
    · rfl
    · exact absurd hfail' (hbefore _ (getElem_mem_take hn hgt))

end FirstFailure

/-- Settles O17: each branch of the check knows that its own test fails and that the tests before it pass. -/
theorem configCheckIsFirstFailure : Obligations.ConfigCheckIsFirstFailure := by
  intro b rounds rate cap out fails e
  show IsFirstFailure fails e
  have hsum : ¬rate + cap ≠ stateBits → rate + cap = 1600 := not_not.mp
  simp only [e, configCheck]
  split_ifs with h1 h2 h3 h4 h5 h6
  · exact isFirstFailure_succ 0 (by simp [fails]) h1 (by simp [fails])
  · exact isFirstFailure_succ 1 (by simp [fails]) h2 (by simp [fails, hsum h1])
  · exact isFirstFailure_succ 2 (by simp [fails]) h3 (by simp [fails, hsum h1, h2])
  · exact isFirstFailure_succ 3 (by simp [fails]) h4 (by simp [fails, hsum h1, h2, h3])
  · exact isFirstFailure_succ 4 (by simp [fails]) h5 (by simp [fails, hsum h1, h2, h3, h4])
  · exact isFirstFailure_succ 5 (by simp [fails]) h6 (by simp [fails, hsum h1, h2, h3, h4, h5])
  · exact isFirstFailure_zero (by simp [fails, hsum h1, h2, h3, h4, h5, h6])

/-! ### Operands out of range -/

section OutOfRange
variable {s : State}

/-- `x > 4` or `y > 4` (60_exceptions.md R185). -/
theorem withLane_eq_raise {x y : Nat} {body : Fin 5 → Fin 5 → Result} (h : 4 < x ∨ 4 < y) :
    withLane x y s body = .next (raise .laneIndexError s) :=
  withLane_fail (by omega)

theorem withLane_of_le {x y : Nat} {body : Fin 5 → Fin 5 → Result} (hx : x ≤ 4) (hy : y ≤ 4) :
    withLane x y s body = body ⟨x, by omega⟩ ⟨y, by omega⟩ :=
  withLane_pass (by omega) (by omega)

theorem requireBelow_eq_raise {i size : Nat} {body : Result} (h : size ≤ i) :
    requireBelow i size s body = .next (raise .indexRangeError s) :=
  requireBelow_fail (by omega)

end OutOfRange

/-! ### `INIT` (40_state_access.md R90) -/

/-- Settles O16: a passing `INIT` begins the computation, a failing one takes its fault. -/
theorem initBeginsComputation : Obligations.InitBeginsComputation :=
  ⟨fun _ => rfl,
    fun _ hcfg => ⟨_, execInit_pass hcfg, rfl, fun x y => ⟨fill_get 0 x y, fill_get 0 x y⟩, fun _ => ⟨rfl, rfl⟩⟩,
    fun _ hcfg => execInit_fail hcfg⟩

/-! ### The control registers (40_state_access.md R92, R93) -/

/-- The write to a writable register, field by field. -/
theorem writeControl_eq {n : Nat} (hn : n ≤ 4) (s : State) (v : Datum) :
    s.writeControl n v = { s with
      rounds := if n = 0 then v else s.rounds, rateBits := if n = 1 then v else s.rateBits,
      capBits := if n = 2 then v else s.capBits, outBits := if n = 3 then v else s.outBits,
      ridx := if n = 4 then v else s.ridx, ready := if n ≤ 3 then false else s.ready } := by
  match n with
  | 0 => exact writeControl_rounds_eq s v
  | 1 => exact writeControl_rateBits_eq s v
  | 2 => exact writeControl_capBits_eq s v
  | 3 => exact writeControl_outBits_eq s v
  | 4 => exact writeControl_ridx_eq s v

/-- Settles O18, by the write field by field. -/
theorem writeControlRegister : Obligations.WriteControlRegister := by
  refine ⟨fun n wd => decode_formatI rfl, fun s n wd hn => ?_, fun s n wd hn => requireBelow_eq_raise hn⟩
  have hexec : exec (.wrcr n wd) s = complete 0 (s.writeControl n wd) := requireBelow_pass (by omega)
  rw [hexec, writeControl_eq hn]
  exact ⟨_, rfl, rfl⟩

/-- Settles O19; `FLATI` and `FLATF` are read zero-extended. -/
theorem readControlRegister : Obligations.ReadControlRegister := by
  refine ⟨fun n wd => decode_formatI rfl, fun s n hn => ⟨s.readControl n, requireBelow_pass (by omega), ?_⟩,
    fun s n hn => requireBelow_eq_raise hn⟩
  refine ⟨?_, ?_, ?_, ?_, ?_, ?_, ?flatI, ?flatF, ?_⟩
  case flatI => rintro rfl; exact BitVec.toNat_setWidth_of_le (by omega)
  case flatF => rintro rfl; exact BitVec.toNat_setWidth_of_le (by omega)
  all_goals rintro rfl; rfl

/-! ### Lanes (40_state_access.md R94, R97, R98) -/

/-- Settles O21, by the one key lane that is set. -/
theorem loadKeyLane : Obligations.LoadKeyLane := by
  refine ⟨fun x y wd => decode_formatL rfl, fun s x y wd => ?_,
    fun s x y wd h => (exec_ldk x y wd s).trans (withLane_eq_raise h)⟩
  rw [exec_ldk, withLane_lane]
  exact ⟨_, rfl, rfl, setLane_get x y wd s.k⟩

/-- The second XOR of one value into one lane undoes the first. -/
theorem setLane_xor_cancel (x y : Fin 5) (v : Lane) (g : Grid) :
    let g' := setLane x y (g[x][y] ^^^ v) g
    setLane x y (g'[x][y] ^^^ v) g' = g := by
  intro g'
  refine Lanes.ext fun x' y' => ?_
  rw [setLane_get, setLane_get_self, setLane_get]
  by_cases h : x' = x ∧ y' = y
  · obtain ⟨rfl, rfl⟩ := h
    rw [if_pos ⟨rfl, rfl⟩, BitVec.xor_assoc, BitVec.xor_self, BitVec.xor_zero]
  · rw [if_neg h, if_neg h]

/-- Settles O24, by the one lane that is set and the XOR that cancels. -/
theorem xorIntoLane : Obligations.XorIntoLane := by
  refine ⟨fun x y wd => decode_formatL rfl, fun s x y wd => ?_,
    fun s x y wd h => (exec_xorl x y wd s).trans (withLane_eq_raise h)⟩
  simp only [exec_xorl, withLane_lane]
  refine ⟨_, rfl, rfl, setLane_get x y _ s.a, ?_⟩
  rw [setLane_xor_cancel]
  rfl

/-- Settles O25: the answer is the lane itself. -/
theorem readLane : Obligations.ReadLane :=
  ⟨fun _ _ _ => decode_formatL rfl, fun s x y => (exec_rdl x y s).trans (withLane_lane x y s _),
    fun s x y h => (exec_rdl x y s).trans (withLane_eq_raise h)⟩

/-! ### The shift table (40_state_access.md R95, R96) -/

/-- A datum of at most 63 is what its low six bits spell. -/
theorem shiftOfDatum_toNat {wd : Datum} (h : wd.toNat ≤ 63) : (wd.extractLsb' 0 6).toNat = wd.toNat := by
  rw [BitVec.extractLsb'_toNat, Nat.shiftRight_zero]
  omega

/-- Settles O22; the lane is checked before the two ranges. -/
theorem loadShiftEntry : Obligations.LoadShiftEntry := by
  refine ⟨fun r x y wd => decode_formatRL rfl, fun s r x y wd htable hr hwd => ?_,
    fun s r x y wd h => (exec_ldsh r x y wd s).trans (withLane_eq_raise h), fun s r x y wd hx hy h => ?_⟩
  · rw [exec_ldsh, withLane_lane, requireBelow_pass hr, requireBelow_pass (by omega)]
    refine ⟨_, rfl, rfl, (setShift_length r x y _ s.ksh).trans htable, fun r' x' y' => ?_⟩
    rw [← shiftOfDatum_toNat hwd, ← apply_ite BitVec.toNat]
    exact congrArg BitVec.toNat (shiftRow_setShift s r x y _ r' x' y' (htable ▸ hr))
  · rw [exec_ldsh, withLane_of_le hx hy]
    by_cases hr : r < s.build.maxRounds
    · rw [requireBelow_pass hr]
      exact requireBelow_eq_raise (by omega)
    · exact requireBelow_eq_raise (by omega)

/-- The row that the table holds is the row read. -/
theorem shiftRow_eq_of_getElem? {s : State} {r : Nat} {row : ShiftRow} (h : s.ksh[r]? = some row) :
    s.shiftRow r = row := by
  rw [State.shiftRow, List.getD_eq_getElem?_getD, h, Option.getD_some]

/-- A shift amount read out as a datum keeps its value. -/
theorem datumOfShift_toNat (v : Shift) : (v.setWidth 64).toNat = v.toNat := BitVec.toNat_setWidth_of_le (by omega)

/-- Settles O23: the answer is the entry of the row the table holds; the lane is checked before the range. -/
theorem readShiftEntry : Obligations.ReadShiftEntry := by
  refine ⟨fun r x y wd => decode_formatRL rfl, fun s r x y hr => ?_,
    fun s r x y h => (exec_rdsh r x y s).trans (withLane_eq_raise h), fun s r x y hx hy hr => ?_⟩
  · rw [exec_rdsh, withLane_lane, requireBelow_pass hr]
    refine ⟨_, rfl, fun row hrow => ?_⟩
    rw [datumOfShift_toNat, shiftRow_eq_of_getElem? hrow]
  · rw [exec_rdsh, withLane_of_le hx hy]
    exact requireBelow_eq_raise hr

/-! ### The ROMs (40_state_access.md R99, R100) -/

theorem exec_rdrc_of_lt {s : State} {r : Nat} (h : r < s.build.rc.length) :
    exec (.rdrc r) s = complete s.build.rc[r] s := by
  have hrc : s.roundConstant r = s.build.rc[r] := List.getD_eq_getElem _ _ h
  rw [← hrc]
  exact requireBelow_pass h

/-- Settles O26, both ROMs with their own range check. -/
theorem readRoms : Obligations.ReadRoms :=
  ⟨fun _ _ _ => decode_formatL rfl, fun _ _ => decode_formatI rfl,
    fun s x y => ⟨_, (exec_rdrot x y s).trans (withLane_lane x y s _), datumOfShift_toNat _⟩,
    fun s x y h => (exec_rdrot x y s).trans (withLane_eq_raise h),
    fun _ _ h => exec_rdrc_of_lt h, fun _ _ h => requireBelow_eq_raise h⟩

end Sys2Proof.Machine
end

section
/-! PROOFS. The permutation commands: what each of the six steps does to the grid and what it leaves, `ROUND` as their
chain and `PERM` as a chain of rounds (41_permutation.md R110 to R118). -/

namespace Sys2Proof

/-! ### The one word of a command without operands (30_encoding.md R72, R75) -/

/-- A word with the opcode of a command without operands is that command's word, or its reserved bits are not zero. -/
theorem decode_formatN {opc : Nat} {i : Instr} {cw : CommandWord} {wd : Datum} (hopc : opcOf cw = opc)
    (hrow : ∀ idx x y, rowOf opc idx x y wd = some (.n, i)) :
    decode cw wd = if cw = BitVec.ofNat 32 opc <<< 24 then .ok i else .error .reservedBits := by
  have hmask : cw &&& Format.n.mask = cw := BitVec.and_allOnes
  simp only [decode, hopc, hrow, hmask]

theorem decode_formatN_ok {opc : Nat} {i : Instr} {cw : CommandWord} {wd : Datum} (hopc : opcOf cw = opc)
    (hrow : ∀ idx x y, rowOf opc idx x y wd = some (.n, i)) (hcw : cw = BitVec.ofNat 32 opc <<< 24) :
    decode cw wd = .ok i :=
  (decode_formatN hopc hrow).trans (if_pos hcw)

theorem decode_formatN_reserved {opc : Nat} {i : Instr} {cw : CommandWord} {wd : Datum} (hopc : opcOf cw = opc)
    (hrow : ∀ idx x y, rowOf opc idx x y wd = some (.n, i)) (hcw : cw ≠ BitVec.ofNat 32 opc <<< 24) :
    decode cw wd = .error .reservedBits :=
  (decode_formatN hopc hrow).trans (if_neg hcw)

end Sys2Proof

namespace Sys2Proof.Machine

/-! ### What a step command does: it applies a map to the grid, and answers -/

/-- Issued in `s`, or in a state that differs from `s` in grid and answer only, the command `i` applies `f` to the grid
and completes. -/
def StepsGrid (s : State) (i : Instr) (f : Grid → Grid) : Prop :=
  ∀ g ans, exec i { s with a := g, answer := ans } = .next { s with a := f g, answer := some ⟨0x00, 0⟩ }

section StepsGrid
variable {s : State}

theorem stepsGrid_kappa (hready : s.ready = true) (hround : s.ridx.toNat < s.rounds.toNat) :
    StepsGrid s .kappa (kappaGrid s.k (s.shiftRow s.ridx.toNat)) := fun g ans =>
  (requireReady_pass (s := { s with a := g, answer := ans }) hready).trans
    (requireRound_pass (s := { s with a := g, answer := ans }) hround)

theorem stepsGrid_cpmix (hready : s.ready = true) : StepsGrid s .cpmix cpmixGrid := fun g ans =>
  requireReady_pass (s := { s with a := g, answer := ans }) hready

theorem stepsGrid_lrot (hready : s.ready = true) : StepsGrid s .lrot (lrotGrid s.build.rot) := fun g ans =>
  requireReady_pass (s := { s with a := g, answer := ans }) hready

theorem stepsGrid_lreloc (hready : s.ready = true) : StepsGrid s .lreloc lrelocGrid := fun g ans =>
  requireReady_pass (s := { s with a := g, answer := ans }) hready

theorem stepsGrid_nlcomb (hready : s.ready = true) : StepsGrid s .nlcomb nlcombGrid := fun g ans =>
  requireReady_pass (s := { s with a := g, answer := ans }) hready

theorem stepsGrid_cinj (hready : s.ready = true) (hround : s.ridx.toNat < s.rounds.toNat) :
    StepsGrid s .cinj (cinjGrid (s.roundConstant s.ridx.toNat)) := fun g ans =>
  (requireReady_pass (s := { s with a := g, answer := ans }) hready).trans
    (requireRound_pass (s := { s with a := g, answer := ans }) hround)

variable {i : Instr} {f : Grid → Grid}

theorem StepsGrid.exec_eq (h : StepsGrid s i f) :
    exec i s = .next { s with a := f s.a, answer := some ⟨0x00, 0⟩ } := h s.a s.answer

/-- Issued `n + 1` times in a row, a step command applies its map as often. -/
theorem StepsGrid.repeatCommand_eq (h : StepsGrid s i f) (n : Nat) :
    repeatCommand i (n + 1) s = .next { s with a := f^[n + 1] s.a, answer := some ⟨0x00, 0⟩ } := by
  induction n with
  | zero => exact h.exec_eq
  | succ n ih =>
    rw [repeatCommand, ih, Function.iterate_succ_apply' f (n + 1)]
    exact h _ _

theorem StepsGrid.repeatCommand_two_of_involutive (h : StepsGrid s i f) (hf : Function.Involutive f) :
    repeatCommand i 2 s = .next { s with answer := some ⟨0x00, 0⟩ } := by
  have htwice : f^[2] s.a = s.a := hf s.a
  rw [h.repeatCommand_eq 1, htwice]

/-- Two states that differ in their grids only and are taken to one state have grids with one image. -/
theorem StepsGrid.image_eq {t : State} {g g' : Grid} (h : StepsGrid s i f)
    (hg : exec i { s with a := g } = .next t) (hg' : exec i { s with a := g' } = .next t) : f g = f g' := by
  have hnext := (h g s.answer).symm.trans (hg.trans (hg'.symm.trans (h g' s.answer)))
  exact congrArg State.a (Host.Outcome.next.inj hnext)

end StepsGrid

/-! ### The checks of the step commands (41_permutation.md R110) -/

section Checks
variable {s : State} {body : Result}

theorem requireReady_eq_raise (h : s.ready = false) : requireReady s body = .next (raise .notReady s) :=
  requireReady_fail h

theorem requireRound_eq_raise (hready : s.ready = true) (hround : s.rounds.toNat ≤ s.ridx.toNat) :
    requireReady s (requireRound s body) = .next (raise .roundIndexError s) :=
  (requireReady_pass hready).trans (requireRound_fail (by omega))

end Checks

/-! ### The six steps (41_permutation.md R111 to R116) -/

/-- Settles O29; a shift is a division by a power of 2. -/
theorem kappaXorsShiftedKey : Obligations.KappaXorsShiftedKey := by
  refine ⟨fun _ => decode_formatN_ok rfl (fun _ _ _ => rfl) rfl,
    fun s hready hround => ⟨_, (stepsGrid_kappa hready hround).exec_eq, rfl, fun x y => ?_⟩,
    fun _ => requireReady_eq_raise, fun _ => requireRound_eq_raise⟩
  rw [kappaGrid_get, BitVec.toNat_xor, shr64_toNat]

/-- The parity of a column as a sum over its lanes. -/
theorem columnParity_eq_foldl (a : Grid) (x : Fin 5) :
    columnParity a x = (List.finRange 5).foldl (fun acc y => acc ^^^ a[x][y]) 0 := by
  have hlanes : List.finRange 5 = [0, 1, 2, 3, 4] := by decide
  rw [hlanes]
  simp only [columnParity, List.foldl_cons, List.foldl_nil, BitVec.ofNat_eq_ofNat, BitVec.zero_xor]

/-- Settles O30; `c` and `d` are the model's own column parities and their mix. -/
theorem cpmixMixesColumnParities : Obligations.CpmixMixesColumnParities :=
  ⟨fun _ => decode_formatN_ok rfl (fun _ _ _ => rfl) rfl,
    fun _ _ hopc hcw => decode_formatN_reserved hopc (fun _ _ _ => rfl) hcw,
    fun s hready => ⟨_, (stepsGrid_cpmix hready).exec_eq, rfl,
      columnParity s.a, columnMix s.a, columnParity_eq_foldl s.a, fun _ => rfl, cpmixGrid_get s.a⟩,
    fun _ => requireReady_eq_raise⟩

/-- Settles O31, by the bit law of rotation. -/
theorem lrotRotatesEachLane : Obligations.LrotRotatesEachLane := by
  refine ⟨fun _ => decode_formatN_ok rfl (fun _ _ _ => rfl) rfl,
    fun _ _ hopc hcw => decode_formatN_reserved hopc (fun _ _ _ => rfl) hcw,
    fun s hready => ⟨_, (stepsGrid_lrot hready).exec_eq, rfl, fun x y i hi => ?_⟩,
    fun _ => requireReady_eq_raise⟩
  rw [lrotGrid_get]
  exact rotl64_getLsbD_add_mod _ (s.build.rot[x][y]).isLt hi

/-- The model reads each lane from its source; said from the source, the lane at `(x,y)` goes to `((x+3y) mod 5, x)`
(41_permutation.md R114). -/
theorem lrelocGrid_get_target (a : Grid) (x y : Fin 5) : (lrelocGrid a)[x + 3 * y][x] = a[x][y] := by
  have hsource : ∀ x y : Fin 5, 2 * (x + 3 * y) + 3 * x = y := by decide
  simp only [lrelocGrid_get, hsource]

/-- Settles O32, by the move said from the source. -/
theorem lrelocMovesLanes : Obligations.LrelocMovesLanes :=
  ⟨fun _ => decode_formatN_ok rfl (fun _ _ _ => rfl) rfl,
    fun s hready => ⟨_, (stepsGrid_lreloc hready).exec_eq, rfl, lrelocGrid_get_target s.a⟩,
    fun _ => requireReady_eq_raise⟩

/-- Settles O33, each bit from the three bits of the grid before the step. -/
theorem nlcombCombinesRow : Obligations.NlcombCombinesRow := by
  refine ⟨fun _ => decode_formatN_ok rfl (fun _ _ _ => rfl) rfl,
    fun s hready => ⟨_, (stepsGrid_nlcomb hready).exec_eq, rfl, fun x y i hi => ?_⟩,
    fun _ => requireReady_eq_raise⟩
  rw [nlcombGrid_get, BitVec.getLsbD_xor, BitVec.getLsbD_and, not64, BitVec.getLsbD_not, decide_eq_true hi,
    Bool.true_and]

/-- The constant that the list holds is the constant read. -/
theorem roundConstant_eq_of_getElem? {s : State} {r : Nat} {rc : Lane} (h : s.build.rc[r]? = some rc) :
    s.roundConstant r = rc := by
  rw [State.roundConstant, List.getD_eq_getElem?_getD, h, Option.getD_some]

/-- Settles O34: one lane is set, the others are not. -/
theorem cinjInjectsConstant : Obligations.CinjInjectsConstant := by
  refine ⟨fun _ => decode_formatN_ok rfl (fun _ _ _ => rfl) rfl,
    fun s hready hround => ⟨_, (stepsGrid_cinj hready hround).exec_eq, rfl,
      fun rc hrc => ?_, fun x y hxy => ?_⟩,
    fun _ => requireReady_eq_raise, fun _ => requireRound_eq_raise⟩
  · rw [cinjGrid_get, if_pos ⟨rfl, rfl⟩, roundConstant_eq_of_getElem? hrc]
  · rw [cinjGrid_get, if_neg hxy]

/-! ### The round and the permutation (41_permutation.md R117, R118) -/

theorem exec_round_eq {s : State} (hready : s.ready = true) (hround : s.ridx.toNat < s.rounds.toNat) :
    exec .round s = complete 0 (roundState s) :=
  (requireReady_pass hready).trans (requireRound_pass hround)

theorem roundState_ridx_toNat {s : State} (hround : s.ridx.toNat < s.rounds.toNat) :
    (roundState s).ridx.toNat = (s.ridx.toNat + 1) % s.rounds.toNat := by
  rw [roundState_ridx, BitVec.toNat_ofNat]
  exact Nat.mod_eq_of_lt ((Nat.mod_lt _ (by omega)).trans s.rounds.isLt)

/-- Settles O35: each command of the chain is issued in `s` with another grid. -/
theorem roundIsSixStepsThenAdvance : Obligations.RoundIsSixStepsThenAdvance := by
  refine ⟨fun _ => decode_formatN_ok rfl (fun _ _ _ => rfl) rfl, fun s hready hround => ?_,
    fun _ => requireReady_eq_raise, fun _ => requireRound_eq_raise⟩
  have hridx := roundState_ridx_toNat hround
  exact ⟨_, _, _, _, _, _, _, (stepsGrid_kappa hready hround).exec_eq, stepsGrid_cpmix hready _ _,
    stepsGrid_lrot hready _ _, stepsGrid_lreloc hready _ _, stepsGrid_nlcomb hready _ _,
    stepsGrid_cinj hready hround _ _, exec_round_eq hready hround, rfl, rfl, hridx⟩

/-- `ROUND` issued once for each round, or less often, from round 0: the index stays in range before every issue. -/
theorem repeatCommand_round {s : State} (hready : s.ready = true) (hridx : s.ridx = 0) {n : Nat} (hpos : 1 ≤ n)
    (hn : n ≤ s.rounds.toNat) : repeatCommand .round n s = complete 0 (runRounds n s) := by
  induction n, hpos using Nat.le_induction with
  | base => exact exec_round_eq hready (by rw [hridx]; exact hn)
  | succ n hpos ih =>
    have hready' : (runRounds n s).ready = true := by rw [runRounds_frame]; exact hready
    have hround' : (runRounds n s).ridx.toNat < (runRounds n s).rounds.toNat := by
      rw [runRounds_ridx hridx (by omega) (by omega), runRounds_frame]
      exact Nat.mod_lt _ (by omega)
    rw [repeatCommand, ih (by omega), runRounds_succ_last]
    exact exec_round_eq (s := { runRounds n s with answer := some ⟨0x00, 0⟩ }) hready' hround'

/-- Settles O36; a passing configuration has a round at least. -/
theorem permIsRoundsFromZero : Obligations.PermIsRoundsFromZero := by
  refine ⟨fun _ => decode_formatN_ok rfl (fun _ _ _ => rfl) rfl, fun s hready hcfg => ?_,
    fun _ => requireReady_eq_raise⟩
  obtain ⟨-, -, ⟨hpos, -⟩, -⟩ := bounds_of_configCheck_eq_zero (hcfg hready)
  have hperm : ∀ v, exec .perm { s with ridx := v } = complete 0 (permute s) := fun v =>
    requireReady_pass (s := { s with ridx := v }) hready
  have hrepeat : repeatCommand .round s.rounds.toNat { s with ridx := 0 } = complete 0 (permute s) :=
    repeatCommand_round (s := { s with ridx := 0 }) hready rfl hpos le_rfl
  refine ⟨_, hperm s.ridx, hrepeat, ?_, hperm⟩
  rw [permute_frame, permute_ridx hpos]

end Sys2Proof.Machine
end

section
/-! PROOFS. What the steps are as maps of the grid: two undo themselves, the relocation has order 24, and all six are
injective (41_permutation.md R111 to R116, R120). -/

namespace Sys2Proof.Machine

/-! ### `KAPPA` and `CINJ` are XORs with what the grid has no part in (41_permutation.md R111, R116) -/

theorem kappaGrid_involutive (k : Grid) (row : ShiftRow) : Function.Involutive (kappaGrid k row) := fun a =>
  Lanes.ext fun x y => by rw [kappaGrid_get, kappaGrid_get, BitVec.xor_assoc, BitVec.xor_self, BitVec.xor_zero]

theorem cinjGrid_involutive (rc : Lane) : Function.Involutive (cinjGrid rc) :=
  setLane_xor_cancel 0 0 rc

/-- Nothing shifted is nothing XORed. -/
theorem kappaGrid_of_zero {k : Grid} (hk : ∀ x y : Fin 5, k[x][y] = 0) (row : ShiftRow) (a : Grid) :
    kappaGrid k row a = a :=
  Lanes.ext fun x y => by rw [kappaGrid_get, hk, shr64, BitVec.ofNat_eq_ofNat, BitVec.zero_ushiftRight, BitVec.xor_zero]

/-- Settles O37: the two steps are involutions of the grid. -/
theorem kappaAndCinjUndoThemselves : Obligations.KappaAndCinjUndoThemselves := by
  refine ⟨fun s hready hround => ⟨?_, ?_⟩, fun s hready hround hk => ?_⟩
  · exact (stepsGrid_kappa hready hround).repeatCommand_two_of_involutive (kappaGrid_involutive _ _)
  · exact (stepsGrid_cinj hready hround).repeatCommand_two_of_involutive (cinjGrid_involutive _)
  · rw [(stepsGrid_kappa hready hround).exec_eq, kappaGrid_of_zero hk]

/-! ### The order of the relocation (41_permutation.md R114) -/

/-- Where the relocation takes the lane at a position from: the linear map `(x,y) -> (y, 2x + 3y)` modulo 5. -/
def lrelocSource (p : Fin 5 × Fin 5) : Fin 5 × Fin 5 := (p.2, 2 * p.1 + 3 * p.2)

theorem lrelocGrid_iterate_get (n : Nat) (a : Grid) (p : Fin 5 × Fin 5) :
    (lrelocGrid^[n] a)[p.1][p.2] = a[(lrelocSource^[n] p).1][(lrelocSource^[n] p).2] := by
  induction n generalizing p with
  | zero => rfl
  | succ n ih =>
    rw [Function.iterate_succ_apply', lrelocGrid_get]
    exact ih (lrelocSource p)

/-- The map of the positions has order 24. -/
theorem lrelocSource_iterate_24 : ∀ p, lrelocSource^[24] p = p := by decide

/-- The position `(0,1)` is back at its place after 24 relocations and not before. -/
theorem lrelocSource_iterate_ne : ∀ n < 24, 0 < n → lrelocSource^[n] (0, 1) ≠ (0, 1) := by decide

theorem lrelocGrid_iterate_24 (a : Grid) : lrelocGrid^[24] a = a :=
  Lanes.ext fun x y => by simpa only [lrelocSource_iterate_24] using lrelocGrid_iterate_get 24 a (x, y)

/-- A grid whose only lane that is not 0 is at `(0,1)`. -/
def markedGrid : Grid := setLane 0 1 1 (Lanes.fill 0)

/-- Fewer than 24 relocations take the marked lane elsewhere. -/
theorem lrelocGrid_iterate_ne {n : Nat} (hpos : 0 < n) (hn : n < 24) :
    lrelocGrid^[n] markedGrid ≠ markedGrid := by
  intro heq
  have hlane := lrelocGrid_iterate_get n markedGrid (0, 1)
  have hmoved : ¬((lrelocSource^[n] (0, 1)).1 = 0 ∧ (lrelocSource^[n] (0, 1)).2 = 1) :=
    fun h => lrelocSource_iterate_ne n hn hpos (Prod.ext h.1 h.2)
  rw [heq, markedGrid, setLane_get_self, setLane_get, if_neg hmoved, fill_get] at hlane
  exact absurd hlane (by decide)

/-- Settles O38; the state of the second half is a ready one that holds the marked grid. -/
theorem lrelocHasOrder24 : Obligations.LrelocHasOrder24 := by
  refine ⟨fun s hready => ?_, fun n hpos hn => ?_⟩
  · rw [(stepsGrid_lreloc hready).repeatCommand_eq 23, lrelocGrid_iterate_24]
  · let s : State := { State.reset with ready := true, a := markedGrid }
    obtain ⟨m, rfl⟩ := Nat.exists_eq_add_of_lt hpos
    exact ⟨s, _, rfl, (stepsGrid_lreloc rfl).repeatCommand_eq _, lrelocGrid_iterate_ne hpos hn⟩

/-! ### The injective steps (41_permutation.md R120) -/

theorem lrotGrid_injective (rot : ShiftRow) : Function.Injective (lrotGrid rot) := by
  intro g h heq
  refine Lanes.ext fun x y => BitVec.eq_of_getLsbD_eq fun i hi => ?_
  have hlane : rotl64 g[x][y] rot[x][y].toNat = rotl64 h[x][y] rot[x][y].toNat := by
    rw [← lrotGrid_get, heq, lrotGrid_get]
  rw [← rotl64_getLsbD_add_mod g[x][y] rot[x][y].isLt hi, hlane, rotl64_getLsbD_add_mod _ rot[x][y].isLt hi]

theorem lrelocGrid_injective : Function.Injective lrelocGrid := fun g h heq =>
  Lanes.ext fun x y => by rw [← lrelocGrid_get_target g x y, heq, lrelocGrid_get_target]

/-- The nonlinear combination of five lanes around is undone by the five lanes it makes: a fact of five bits. -/
theorem nlcomb_lane_recover (p q r u v : Lane) :
    p = (p ^^^ (not64 q &&& r)) ^^^ (not64 (q ^^^ (not64 r &&& u)) &&&
      ((r ^^^ (not64 u &&& v)) ^^^ (not64 (u ^^^ (not64 v &&& p)) &&& (v ^^^ (not64 p &&& q))))) := by
  have hbits : ∀ p q r u v : Bool, p = ((p ^^ (!q && r)) ^^ (!(q ^^ (!r && u)) &&
      ((r ^^ (!u && v)) ^^ (!(u ^^ (!v && p)) && (v ^^ (!p && q)))))) := by decide
  refine BitVec.eq_of_getLsbD_eq fun i hi => ?_
  simpa only [not64, BitVec.getLsbD_xor, BitVec.getLsbD_and, BitVec.getLsbD_not, decide_eq_true hi, Bool.true_and]
    using hbits (p.getLsbD i) (q.getLsbD i) (r.getLsbD i) (u.getLsbD i) (v.getLsbD i)

/-- A row after the combination gives back each lane of the row before. -/
theorem nlcombGrid_recover (a : Grid) (x y : Fin 5) :
    let b := nlcombGrid a
    a[x][y] = b[x][y] ^^^ (not64 b[x + 1][y] &&& (b[x + 2][y] ^^^ (not64 b[x + 3][y] &&& b[x + 4][y]))) := by
  have haround : ∀ x : Fin 5, x + 1 + 1 = x + 2 ∧ x + 1 + 2 = x + 3 ∧ x + 2 + 1 = x + 3 ∧ x + 2 + 2 = x + 4 ∧
      x + 3 + 1 = x + 4 ∧ x + 3 + 2 = x ∧ x + 4 + 1 = x ∧ x + 4 + 2 = x + 1 := by decide
  simp only [nlcombGrid_get, haround]
  exact nlcomb_lane_recover _ _ _ _ _

theorem nlcombGrid_injective : Function.Injective nlcombGrid := fun g h heq =>
  Lanes.ext fun x y => by rw [nlcombGrid_recover g, heq, ← nlcombGrid_recover h]

/-- Settles O39: the map of each of the five commands is injective. -/
theorem stepsAreInjective : Obligations.StepsAreInjective := by
  intro i hi s t g h hready hround hg hh
  simp only [List.mem_cons, List.not_mem_nil, or_false] at hi
  obtain rfl | rfl | rfl | rfl | rfl := hi
  · exact (kappaGrid_involutive _ _).injective ((stepsGrid_kappa hready (hround rfl)).image_eq hg hh)
  · exact lrotGrid_injective _ ((stepsGrid_lrot hready).image_eq hg hh)
  · exact lrelocGrid_injective ((stepsGrid_lreloc hready).image_eq hg hh)
  · exact nlcombGrid_injective ((stepsGrid_nlcomb hready).image_eq hg hh)
  · exact (cinjGrid_involutive _).injective ((stepsGrid_cinj hready (hround rfl)).image_eq hg hh)

/-! ### Rotations compose, and a whole turn is none (00_scope.md R12) -/

/-- Bit `i` of a rotated lane comes from `n` places lower, around the lane. -/
theorem rotl64_getLsbD (v : Lane) (n : Nat) {i : Nat} (hi : i < 64) :
    (rotl64 v n).getLsbD i = v.getLsbD ((i + (64 - n % 64)) % 64) := by
  have hsource : ((i + (64 - n % 64)) % 64 + n % 64) % 64 = i := by omega
  have hbit := rotl64_getLsbD_add_mod v (n := n % 64) (i := (i + (64 - n % 64)) % 64) (by omega) (by omega)
  rwa [hsource, rotl64, BitVec.rotateLeft_mod_eq_rotateLeft] at hbit

theorem rotl64_xor (v w : Lane) (n : Nat) : rotl64 (v ^^^ w) n = rotl64 v n ^^^ rotl64 w n := by
  refine BitVec.eq_of_getLsbD_eq fun i hi => ?_
  simp only [BitVec.getLsbD_xor, rotl64_getLsbD _ _ hi]

theorem rotl64_rotl64 (v : Lane) (m n : Nat) : rotl64 (rotl64 v m) n = rotl64 v (m + n) := by
  refine BitVec.eq_of_getLsbD_eq fun i hi => ?_
  have hsource : ((i + (64 - n % 64)) % 64 + (64 - m % 64)) % 64 = (i + (64 - (m + n) % 64)) % 64 := by omega
  rw [rotl64_getLsbD _ _ hi, rotl64_getLsbD _ _ (by omega), hsource, rotl64_getLsbD _ _ hi]

theorem rotl64_64 (v : Lane) : rotl64 v 64 = v :=
  (BitVec.rotateLeft_mod_eq_rotateLeft (x := v) (r := 64)).symm.trans (rotl64_zero v)

/-! ### Column-parity mixing is injective (41_permutation.md R112, R120)

Two grids with one image have column parities whose difference `e` satisfies
`e[x] = e[x-1] XOR rotl64(e[x+1], 1)`. Putting such an equation into itself doubles both its distances, because the two
middle terms cancel; after six doublings the rotation is a whole turn, and the equation leaves no difference but 0. -/

theorem lane_xor_eq_iff {u v w : Lane} : u ^^^ v = w ↔ u = w ^^^ v := by
  constructor <;> rintro rfl <;> rw [BitVec.xor_assoc, BitVec.xor_self, BitVec.xor_zero]

/-- Each of the five lanes is the XOR of the lane `k` before it and the lane `k` after it, rotated by `n`. -/
def MixFixed (e : Fin 5 → Lane) (k : Fin 5) (n : Nat) : Prop := ∀ x, e x = e (x + 4 * k) ^^^ rotl64 (e (x + k)) n

theorem MixFixed.double {e : Fin 5 → Lane} {k : Fin 5} {n : Nat} (h : MixFixed e k n) :
    MixFixed e (k + k) (n + n) := by
  intro x
  have hpos : ∀ x k : Fin 5, x + 4 * k + 4 * k = x + 4 * (k + k) ∧ x + 4 * k + k = x ∧ x + k + 4 * k = x ∧
      x + k + k = x + (k + k) := by decide
  obtain ⟨hbefore, hback, hforth, hafter⟩ := hpos x k
  have h1 : e (x + 4 * k) = e (x + 4 * (k + k)) ^^^ rotl64 (e x) n := by
    rw [h (x + 4 * k), hbefore, hback]
  have h2 : rotl64 (e (x + k)) n = rotl64 (e x) n ^^^ rotl64 (e (x + (k + k))) (n + n) := by
    rw [h (x + k), rotl64_xor, rotl64_rotl64, hforth, hafter]
  calc e x = e (x + 4 * k) ^^^ rotl64 (e (x + k)) n := h x
    _ = e (x + 4 * (k + k)) ^^^ rotl64 (e x) n ^^^ (rotl64 (e x) n ^^^ rotl64 (e (x + (k + k))) (n + n)) := by
      rw [h1, h2]
    _ = e (x + 4 * (k + k)) ^^^ rotl64 (e (x + (k + k))) (n + n) := by
      rw [BitVec.xor_assoc, ← BitVec.xor_assoc (rotl64 (e x) n), BitVec.xor_self, BitVec.zero_xor]

/-- Without rotation each lane is the XOR of its two neighbours. Such a row repeats after three lanes; as it also
repeats after five, the two neighbours of a lane are equal. -/
theorem MixFixed.eq_zero {e : Fin 5 → Lane} (h : MixFixed e 1 1) (x : Fin 5) : e x = 0 := by
  have hturn : MixFixed e 4 64 := h.double.double.double.double.double.double
  have hpos : ∀ x : Fin 5, x + 4 * 4 = x + 1 ∧ x + 1 + 1 = x + 2 ∧ x + 1 + 4 = x ∧ x + 2 + 1 = x + 3 ∧
      x + 2 + 4 = x + 1 := by decide
  have hsum : ∀ x, e x = e (x + 1) ^^^ e (x + 4) := fun x => by
    simpa only [rotl64_64, hpos] using hturn x
  have hthree : ∀ x, e (x + 3) = e x := fun x => by
    have h1 : e (x + 1) = e (x + 2) ^^^ e x := by simpa only [hpos] using hsum (x + 1)
    have h2 : e (x + 2) = e (x + 3) ^^^ e (x + 1) := by simpa only [hpos] using hsum (x + 2)
    rw [lane_xor_eq_iff.mp h2.symm, BitVec.xor_comm, h1, BitVec.xor_comm, ← BitVec.xor_assoc, BitVec.xor_self,
      BitVec.zero_xor]
  have hfour : e (x + 4) = e (x + 1) := by
    have hwrap : x + 4 = x + 1 + 3 := by decide +revert
    rw [hwrap, hthree]
  rw [hsum x, hfour, BitVec.xor_self, BitVec.ofNat_eq_ofNat]

/-- Five lanes XORed with one value are five values more in the parity, and so one. -/
theorem columnParity_cpmixGrid (a : Grid) (x : Fin 5) :
    columnParity (cpmixGrid a) x = columnParity a x ^^^ columnMix a x := by
  have hfive : ∀ d : Lane, d ^^^ d ^^^ d ^^^ d ^^^ d = d := fun d => by
    rw [BitVec.xor_self, BitVec.zero_xor, BitVec.xor_self, BitVec.zero_xor]
  rw [← hfive (columnMix a x)]
  simp only [columnParity, cpmixGrid_get]
  ac_rfl

theorem mixFixed_of_cpmixGrid_eq {g h : Grid} (heq : cpmixGrid g = cpmixGrid h) :
    MixFixed (fun x => columnParity g x ^^^ columnParity h x) 1 1 := by
  intro x
  have hparity : columnParity g x ^^^ columnMix g x = columnParity h x ^^^ columnMix h x := by
    rw [← columnParity_cpmixGrid, heq, columnParity_cpmixGrid]
  have hdiff : columnParity g x ^^^ columnParity h x = columnMix g x ^^^ columnMix h x := by
    rw [lane_xor_eq_iff.mp hparity, BitVec.xor_comm, ← BitVec.xor_assoc, ← BitVec.xor_assoc, BitVec.xor_self,
      BitVec.zero_xor, BitVec.xor_comm]
  refine hdiff.trans ?_
  simp only [columnMix, rotl64_xor, mul_one]
  ac_rfl

theorem cpmixGrid_injective : Function.Injective cpmixGrid := by
  intro g h heq
  have hparity : columnParity g = columnParity h :=
    funext fun x => BitVec.xor_eq_zero_iff.mp ((mixFixed_of_cpmixGrid_eq heq).eq_zero x)
  refine Lanes.ext fun x y => ?_
  have hlane : g[x][y] ^^^ columnMix g x = h[x][y] ^^^ columnMix h x := by
    rw [← cpmixGrid_get, heq, cpmixGrid_get]
  rw [columnMix, columnMix, hparity] at hlane
  exact (BitVec.xor_left_inj _).mp hlane

/-- Settles O40: one next state leaves no room for two grids. -/
theorem cpmixIsInjective : Obligations.CpmixIsInjective := fun _ _ _ _ hready hg hh =>
  cpmixGrid_injective ((stepsGrid_cpmix hready).image_eq hg hh)

end Sys2Proof.Machine
end

section
/-! PROOFS. The sponge commands: words and bytes of the two byte spaces, padding and absorbing, and squeezing
(42_sponge.md R130 to R142). -/

namespace Sys2Proof.Machine

/-! ### Words of a byte space (20_memory.md R51, R53) -/

theorem Memory.read_writeWord_inside {m : Memory} (h : m.wf) (i : Nat) (v : Datum) {j : Nat} (hj : j < 8) :
    (m.writeWord i v).read (8 * i + j) = v.extractLsb' (8 * j) 8 := by
  rw [Memory.read_writeWord h, if_pos (by omega), Nat.add_sub_cancel_left]

theorem Memory.read_writeWord_outside {m : Memory} (h : m.wf) (i : Nat) (v : Datum) {off : Nat}
    (hoff : off < 8 * i ∨ 8 * i + 8 ≤ off) : (m.writeWord i v).read off = m.read off := by
  rw [Memory.read_writeWord h, if_neg (by omega)]

/-! ### The block buffer (42_sponge.md R130 to R132) -/

/-- Settles O41: one word written, the bytes outside it kept. -/
theorem writeBlockWord : Obligations.WriteBlockWord :=
  ⟨fun _ _ => decode_formatI rfl,
    fun _ i wd hwf hi => ⟨_, requireBelow_pass (Nat.lt_succ_of_le hi), rfl, Memory.writeWord_wf hwf i wd,
      fun _ hj => Memory.read_writeWord_inside hwf i wd hj, fun _ hoff => Memory.read_writeWord_outside hwf i wd hoff⟩,
    fun _ _ _ hi => requireBelow_eq_raise hi⟩

theorem byteOfDatum_toNat {wd : Datum} (h : wd.toNat ≤ 255) : (wd.extractLsb' 0 8).toNat = wd.toNat := by
  rw [BitVec.extractLsb'_toNat, Nat.shiftRight_zero]
  omega

/-- Settles O42; the address is checked before the datum. -/
theorem writeBlockByte : Obligations.WriteBlockByte := by
  refine ⟨fun _ _ => decode_formatI rfl, fun s off wd hwf hoff hwd => ?_, fun s off wd h => ?_⟩
  · have hexec : exec (.wrbb off wd) s = complete 0 { s with buf := s.buf.write off (wd.extractLsb' 0 8) } :=
      (requireBelow_pass (Nat.lt_succ_of_le hoff)).trans (requireBelow_pass (Nat.lt_succ_of_le hwd))
    refine ⟨_, hexec, rfl, Memory.write_wf hwf _ _, ?_, fun off' hne => ?_⟩
    · rw [Memory.read_write hwf, if_pos rfl, byteOfDatum_toNat hwd]
    · rw [Memory.read_write hwf, if_neg hne]
  · by_cases hoff : off < bufBytes
    · have hwd : 256 ≤ wd.toNat := h.resolve_left (Nat.not_lt.mpr (Nat.le_of_lt_succ hoff))
      exact (requireBelow_pass hoff).trans (requireBelow_eq_raise hwd)
    · exact requireBelow_eq_raise (Nat.le_of_not_lt hoff)

/-- Settles O43: the answer is the word, whose bytes are those of the buffer. -/
theorem readBlockWord : Obligations.ReadBlockWord :=
  ⟨fun _ _ => decode_formatI rfl,
    fun s i hi => ⟨_, requireBelow_pass (Nat.lt_succ_of_le hi), fun _ hj => s.buf.readWord_byte i hj⟩,
    fun _ _ hi => requireBelow_eq_raise hi⟩

/-! ### The digest register (42_sponge.md R139, R140) -/

/-- Settles O50, as for the block buffer; the number of words is the build's. -/
theorem readDigestWord : Obligations.ReadDigestWord :=
  ⟨fun _ _ => decode_formatI rfl,
    fun s i hi => ⟨_, requireBelow_pass hi, fun _ hj => s.dig.readWord_byte i hj⟩,
    fun _ _ hi => requireBelow_eq_raise hi⟩

/-- Settles O51, as for the block buffer; the number of words is the build's. -/
theorem writeDigestWord : Obligations.WriteDigestWord :=
  ⟨fun _ _ => decode_formatI rfl,
    fun _ i wd hwf hi => ⟨_, requireBelow_pass hi, rfl, Memory.writeWord_wf hwf i wd,
      fun _ hj => Memory.read_writeWord_inside hwf i wd hj, fun _ hoff => Memory.read_writeWord_outside hwf i wd hoff⟩,
    fun _ _ _ hi => requireBelow_eq_raise hi⟩

/-! ### The permutation inside a command (41_permutation.md R118) -/

/-- Rounds do not read `BUF`, `OUT_BITS` and the answer. -/
theorem runRounds_setUnread (n : Nat) (s : State) (buf : Memory) (outBits : Datum) (answer : Option Answer) :
    runRounds n { s with buf, outBits, answer } =
      { s with buf, outBits, answer, a := (runRounds n s).a, ridx := (runRounds n s).ridx } := by
  induction n generalizing s with
  | zero => rfl
  | succ n ih => exact ih (roundState s)

theorem permute_setBufAnswer (s : State) (buf : Memory) (answer : Option Answer) :
    permute { s with buf, answer } = { permute s with buf, answer } := by
  rw [permute_frame s]
  exact runRounds_setUnread _ { s with ridx := 0 } buf s.outBits answer

theorem permute_setAnswer (s : State) (answer : Option Answer) :
    permute { s with answer } = { permute s with answer } := by
  rw [permute_frame s]
  exact runRounds_setUnread _ { s with ridx := 0 } s.buf s.outBits answer

theorem permute_setOutBits (s : State) (outBits : Datum) :
    permute { s with outBits } = { permute s with outBits } := by
  rw [permute_frame s]
  exact runRounds_setUnread _ { s with ridx := 0 } s.buf outBits s.answer

theorem exec_perm_eq {s : State} (hready : s.ready = true) : exec .perm s = complete 0 (permute s) :=
  requireReady_pass hready

/-! ### Absorbing a block (42_sponge.md R134, R135) -/

theorem absorb_setBufAnswer (blk : List Byte) (s : State) (buf : Memory) (answer : Option Answer) :
    absorb blk { s with buf, answer } = { absorb blk s with buf, answer } :=
  permute_setBufAnswer { s with a := xorBytes s.build.laneOrder 0 blk s.a } buf answer

theorem absorb_ridx (blk : List Byte) {s : State} (h : 0 < s.rounds.toNat) : (absorb blk s).ridx = 0 :=
  permute_ridx (s := { s with a := xorBytes s.build.laneOrder 0 blk s.a }) h

theorem exec_absb_eq {s : State} (hready : s.ready = true) :
    exec .absb s = complete 0 (absorb (s.buf.bytes 0 s.rateBytes) s) :=
  requireReady_pass hready

theorem rounds_pos_of_configCheck {s : State} (h : s.configCheck = 0) : 0 < s.rounds.toNat := by
  obtain ⟨-, -, ⟨hpos, -⟩, -⟩ := bounds_of_configCheck_eq_zero h
  exact hpos

/-- The rate is a part of the grid's 200 bytes (10_state.md R37). -/
theorem rateBytes_le_of_configCheck {s : State} (h : s.configCheck = 0) : s.rateBytes ≤ 200 := by
  obtain ⟨hsum, -⟩ := bounds_of_configCheck_eq_zero h
  unfold stateBits at hsum
  unfold State.rateBytes
  omega

/-- Settles O44: the grid that `PERM` is given is that with the block XORed in. -/
theorem absorbFullBlock : Obligations.AbsorbFullBlock := by
  refine ⟨fun _ => decode_formatN_ok rfl (fun _ _ _ => rfl) rfl, fun s hready hcfg => ?_,
    fun _ => requireReady_eq_raise⟩
  have hlegal := hcfg hready
  refine ⟨xorBytes s.build.laneOrder 0 (s.buf.bytes 0 s.rateBytes) s.a, _,
    fun j hj => stateByte_xorBytes_bytes _ _ _ (rateBytes_le_of_configCheck hlegal) hj,
    exec_absb_eq hready, exec_perm_eq hready, ?_⟩
  rw [absorb_frame, absorb_ridx _ (rounds_pos_of_configCheck hlegal)]

/-! ### Padding (42_sponge.md R133) -/

theorem two_le_padLength {rb : Nat} (hrb : 0 < rb) (len : Nat) : 2 ≤ padLength rb len := by
  have hmod := Nat.mod_lt len hrb
  unfold padLength
  split <;> omega

/-- The padding fills the last block, or the last block and one more. -/
theorem mod_add_padLength {rb : Nat} (hrb : 0 < rb) (len : Nat) :
    len % rb + padLength rb len = if 2 ≤ rb - len % rb then rb else rb + rb := by
  have hmod := Nat.mod_lt len hrb
  unfold padLength
  split <;> omega

theorem add_padLength_mod {rb : Nat} (hrb : 0 < rb) (len : Nat) : (len + padLength rb len) % rb = 0 := by
  rw [← Nat.mod_add_mod, mod_add_padLength hrb]
  split <;> simp

/-- One multiple of the rate is reached with fewer than two bytes only where the rule takes the next. -/
theorem padLength_le {rb q : Nat} (hrb : 0 < rb) (len : Nat) (hq : 2 ≤ q) (hfill : (len + q) % rb = 0) :
    padLength rb len ≤ q := by
  have hmod := Nat.mod_lt len hrb
  rw [← Nat.mod_add_mod] at hfill
  obtain ⟨c, hc⟩ := Nat.dvd_of_mod_eq_zero hfill
  have htotal := mod_add_padLength hrb len
  split at htotal
  case isTrue h =>
    have hone : rb * 1 ≤ rb * c := Nat.mul_le_mul_left rb (Nat.pos_of_mul_pos_left (a := rb) (by omega))
    omega
  case isFalse h =>
    have hlt : rb * 1 < rb * c := by omega
    have htwo : rb * 2 ≤ rb * c := Nat.mul_le_mul_left rb (Nat.lt_of_mul_lt_mul_left hlt)
    omega

/-- Settles O46, with the length of the rule's closed form. -/
theorem paddingIsShortest : Obligations.PaddingIsShortest := fun rb msg hrb =>
  ⟨padLength rb msg.length, two_le_padLength hrb _, by simp [pad, padFirst, padLast], add_padLength_mod hrb _,
    fun _ => padLength_le hrb _, rfl⟩

/-! ### The last block or blocks (42_sponge.md R136) -/

theorem pad_length {rb : Nat} (hrb : 0 < rb) (msg : List Byte) :
    (pad rb msg).length = msg.length + padLength rb msg.length := by
  have htwo := two_le_padLength hrb msg.length
  simp only [pad, List.length_append, List.length_cons, List.length_nil, List.length_replicate]
  omega

theorem Memory.bytes_eq_of_getD {m : Memory} {l : List Byte} {n : Nat} (hlen : l.length = n)
    (h : ∀ j, j < n → m.read j = l.getD j 0) : m.bytes 0 n = l := by
  refine List.ext_getElem (by rw [Memory.bytes_length, hlen]) fun j _ hj => ?_
  have hbyte := h j (hlen ▸ hj)
  rw [List.getD_eq_getElem _ _ hj] at hbyte
  simpa [Memory.bytes] using hbyte

/-- The block that ends in `0x06`, when the `n` message bytes leave no room for `0x80`. -/
def State.markedBlock (s : State) (n : Nat) : List Byte := s.buf.bytes 0 n ++ [padFirst]

/-- The block of zero bytes and `0x80` that follows it. -/
def closingBlock (rb : Nat) : List Byte := List.replicate (rb - 1) 0 ++ [padLast]

theorem closingBlock_length {rb : Nat} (hrb : 0 < rb) : (closingBlock rb).length = rb := by
  simp only [closingBlock, List.length_append, List.length_replicate, List.length_singleton]
  omega

theorem padLength_of_two_free {rb n : Nat} (h : n + 2 ≤ rb) : padLength rb n = rb - n := by
  rw [padLength, Nat.mod_eq_of_lt (by omega), if_pos (by omega)]

theorem padLength_of_one_free {rb n : Nat} (h : n + 1 = rb) : padLength rb n = rb + 1 := by
  rw [padLength, Nat.mod_eq_of_lt (by omega), if_neg (by omega)]
  omega

section AbsorbFinal
variable {s : State} {n : Nat}

theorem markedBlock_length (h : n + 1 = s.rateBytes) : (s.markedBlock n).length = s.rateBytes := by
  simpa [State.markedBlock] using h

theorem pad_of_one_free (h : n + 1 = s.rateBytes) :
    pad s.rateBytes (s.buf.bytes 0 n) = s.markedBlock n ++ closingBlock s.rateBytes := by
  simp [pad, State.markedBlock, closingBlock, padLength_of_one_free h]

theorem absorbFinal_of_two_free (h : n + 2 ≤ s.rateBytes) :
    absorbFinal n s = absorb (pad s.rateBytes (s.buf.bytes 0 n)) s := by
  simp only [absorbFinal, if_pos h, pad, Memory.bytes_length, padLength_of_two_free h]

theorem absorbFinal_of_one_free (h : n + 1 = s.rateBytes) :
    absorbFinal n s = absorb (closingBlock s.rateBytes) (absorb (s.markedBlock n) s) := by
  simp only [absorbFinal, if_neg (show ¬ n + 2 ≤ s.rateBytes by omega), State.markedBlock, closingBlock]

theorem absorbFinal_ridx (hrounds : 0 < s.rounds.toNat) : (absorbFinal n s).ridx = 0 := by
  simp only [absorbFinal]
  split
  · exact absorb_ridx _ hrounds
  · exact absorb_ridx _ (by rw [absorb_frame]; exact hrounds)

/-- `ABSB` with a block in the buffer absorbs that block, and answers. -/
theorem exec_absb_of_bytes (hready : s.ready = true) {m : Memory} {blk : List Byte} (answer : Option Answer)
    (hblk : m.bytes 0 s.rateBytes = blk) :
    exec .absb { s with buf := m, answer } = .next { absorb blk s with buf := m, answer := some ⟨0x00, 0⟩ } := by
  subst hblk
  exact (exec_absb_eq (s := { s with buf := m, answer }) hready).trans
    (congrArg (complete 0) (absorb_setBufAnswer _ s m answer))

end AbsorbFinal

/-- Settles O47: by the number of bytes free in the block, the work of `ABSF` is one `ABSB` or two. -/
theorem absorbFinalBlock : Obligations.AbsorbFinalBlock := by
  refine ⟨fun _ _ => decode_formatI rfl, fun s n hready hcfg hn => ?_, fun _ _ => requireReady_eq_raise,
    fun _ _ hready hn => (requireReady_pass hready).trans (requireBelow_eq_raise hn)⟩
  have hexec : exec (.absf n) s = complete 0 (absorbFinal n s) :=
    (requireReady_pass hready).trans (requireBelow_pass hn)
  have hlength := pad_length (rb := s.rateBytes) (by omega) (s.buf.bytes 0 n)
  rw [Memory.bytes_length] at hlength
  refine ⟨_, hexec, ?frame, fun hfree => ?oneBlock, fun hfree => ?twoBlocks⟩
  case frame => rw [absorbFinal_frame, absorbFinal_ridx (rounds_pos_of_configCheck (hcfg hready))]
  case oneBlock =>
    rw [padLength_of_two_free hfree, Nat.add_sub_cancel' hn.le] at hlength
    refine ⟨hlength, fun m hm => ?_⟩
    rw [absorbFinal_of_two_free hfree]
    exact exec_absb_of_bytes hready s.answer (Memory.bytes_eq_of_getD hlength hm)
  case twoBlocks =>
    rw [padLength_of_one_free hfree] at hlength
    refine ⟨by omega, fun m m' hm hm' => ⟨_, exec_absb_of_bytes hready s.answer rfl, ?_⟩⟩
    have hmarked := markedBlock_length hfree
    have hblk : m.bytes 0 s.rateBytes = s.markedBlock n := by
      refine Memory.bytes_eq_of_getD hmarked fun j hj => ?_
      rw [hm j hj, pad_of_one_free hfree, List.getD_append _ _ _ _ (by omega)]
    have hblk' : m'.bytes 0 s.rateBytes = closingBlock s.rateBytes := by
      refine Memory.bytes_eq_of_getD (closingBlock_length (by omega)) fun j hj => ?_
      rw [hm' j hj, pad_of_one_free hfree, List.getD_append_right _ _ _ _ (by omega), hmarked, Nat.add_sub_cancel_left]
    have hframe := absorb_frame (s.markedBlock n) s
    rw [absorbFinal_of_one_free hfree, hblk]
    refine exec_absb_of_bytes (s := absorb (s.markedBlock n) s) ?_ (some ⟨0x00, 0⟩) ?_
    · rw [hframe]; exact hready
    · rw [hframe]; exact hblk'

/-! ### The permutation several times over -/

theorem iterate_permute_frame (k : Nat) (s : State) :
    permute^[k] s = { s with a := (permute^[k] s).a, ridx := (permute^[k] s).ridx } := by
  induction k with
  | zero => rfl
  | succ k ih => rw [Function.iterate_succ_apply', permute_frame, ih]

theorem iterate_permute_setOutBits (k : Nat) (s : State) (outBits : Datum) :
    permute^[k] { s with outBits } = { permute^[k] s with outBits } := by
  induction k generalizing s with
  | zero => rfl
  | succ k ih => rw [Function.iterate_succ_apply, permute_setOutBits, ih, ← Function.iterate_succ_apply]

theorem repeatCommand_perm {s : State} (hready : s.ready = true) (k : Nat) :
    ∃ answer, repeatCommand .perm k s = .next { permute^[k] s with answer } := by
  induction k with
  | zero => exact ⟨s.answer, rfl⟩
  | succ k ih =>
    obtain ⟨answer, hk⟩ := ih
    have hready' : (permute^[k] s).ready = true := by rw [iterate_permute_frame]; exact hready
    refine ⟨some ⟨0x00, 0⟩, ?_⟩
    have hexec := exec_perm_eq (s := { permute^[k] s with answer }) hready'
    rw [permute_setAnswer] at hexec
    rw [repeatCommand, hk, Function.iterate_succ_apply']
    exact hexec

/-! ### Squeezing (42_sponge.md R137, R138) -/

section Squeeze
variable {fuel need : Nat} {s : State}

theorem permute_build (s : State) : (permute s).build = s.build := by rw [permute_frame]

theorem permute_rateBytes (s : State) : (permute s).rateBytes = s.rateBytes := by rw [permute_frame]; rfl

/-- The last extraction: no permutation follows. -/
theorem squeezeFrom_last (h : need ≤ s.rateBytes) :
    squeezeFrom (fuel + 1) need s = ((List.range need).map (stateByte s.build.laneOrder s.a), s) := by
  simp [squeezeFrom, h]

/-- An extraction before the last gives `RATE_BYTES` bytes, and a permutation follows. -/
theorem squeezeFrom_more (h : s.rateBytes < need) :
    squeezeFrom (fuel + 1) need s =
      ((List.range s.rateBytes).map (stateByte s.build.laneOrder s.a) ++
        (squeezeFrom fuel (need - s.rateBytes) (permute s)).1,
       (squeezeFrom fuel (need - s.rateBytes) (permute s)).2) := by
  simp [squeezeFrom, h.le, h.ne]

/-- A permutation for each full extraction before the last byte. -/
theorem squeezeFrom_state (hrb : 0 < s.rateBytes) (hpos : 0 < need) (hfuel : need ≤ fuel) :
    (squeezeFrom fuel need s).2 = permute^[(need - 1) / s.rateBytes] s := by
  induction fuel generalizing need s with
  | zero => omega
  | succ fuel ih =>
    rcases Nat.lt_or_ge s.rateBytes need with hmore | hlast
    · have hcount : (need - 1) / s.rateBytes = (need - s.rateBytes - 1) / s.rateBytes + 1 := by
        rw [Nat.div_eq_sub_div hrb (by omega), Nat.sub_right_comm]
      rw [squeezeFrom_more hmore, hcount, Function.iterate_succ_apply,
        ih (by rwa [permute_rateBytes]) (by omega) (by omega), permute_rateBytes]
    · rw [squeezeFrom_last hlast, Nat.div_eq_of_lt (by omega)]
      rfl

/-- Byte `j` comes from the extraction before which `j div RATE_BYTES` permutations have run. -/
theorem squeezeFrom_getD (hrb : 0 < s.rateBytes) (hfuel : need ≤ fuel) {j : Nat} (hj : j < need) :
    (squeezeFrom fuel need s).1.getD j 0 =
      stateByte s.build.laneOrder (permute^[j / s.rateBytes] s).a (j % s.rateBytes) := by
  induction fuel generalizing need s j with
  | zero => omega
  | succ fuel ih =>
    rcases Nat.lt_or_ge s.rateBytes need with hmore | hlast
    · rw [squeezeFrom_more hmore]
      rcases Nat.lt_or_ge j s.rateBytes with hhere | hthere
      · rw [List.getD_append _ _ _ _ (by simpa using hhere), Nat.div_eq_of_lt hhere, Nat.mod_eq_of_lt hhere]
        simp [List.getD_eq_getElem?_getD, hhere]
      · rw [List.getD_append_right _ _ _ _ (by simpa using hthere), List.length_map, List.length_range,
          ih (by rwa [permute_rateBytes]) (by omega) (by omega), permute_rateBytes, ← Function.iterate_succ_apply,
          Nat.div_eq_sub_div hrb hthere, Nat.mod_eq_sub_mod hthere, permute_build]
    · have hlt : j < s.rateBytes := by omega
      rw [squeezeFrom_last hlast, Nat.div_eq_of_lt hlt, Nat.mod_eq_of_lt hlt]
      simp [List.getD_eq_getElem?_getD, hj]

theorem squeeze_length (hrb : 0 < s.rateBytes) : (squeeze s).1.length = s.outBytes :=
  squeezeFrom_length hrb le_rfl

theorem read_squeeze_of_lt (hrb : 0 < s.rateBytes) {j : Nat} (hj : j < s.outBytes) :
    (Memory.store [] 0 (squeeze s).1).read j =
      stateByte s.build.laneOrder (permute^[j / s.rateBytes] s).a (j % s.rateBytes) := by
  rw [Memory.read_store Memory.wf_nil, squeeze_length hrb, Nat.zero_add, Nat.sub_zero, if_pos ⟨Nat.zero_le j, hj⟩]
  exact squeezeFrom_getD hrb le_rfl hj

theorem read_squeeze_of_le (hrb : 0 < s.rateBytes) {j : Nat} (hj : s.outBytes ≤ j) :
    (Memory.store [] 0 (squeeze s).1).read j = 0 := by
  rw [Memory.read_store Memory.wf_nil, squeeze_length hrb, Nat.zero_add, if_neg fun h => hj.not_gt h.2]
  rfl

theorem outBytes_pos_of_configCheck (h : s.configCheck = 0) : 0 < s.outBytes := by
  obtain ⟨-, hpos, -, -, hmod, -⟩ := bounds_of_configCheck_eq_zero h
  unfold State.outBytes
  omega

theorem exec_sqz_eq (hready : s.ready = true) :
    exec .sqz s = complete 0 { (squeeze s).2 with dig := Memory.store [] 0 (squeeze s).1 } :=
  requireReady_pass hready

end Squeeze

/-- Settles O48: byte by byte, with one permutation fewer than there are extractions. -/
theorem squeezeFillsDigest : Obligations.SqueezeFillsDigest := by
  refine ⟨fun _ => decode_formatN_ok rfl (fun _ _ _ => rfl) rfl, fun s hready hcfg => ?_,
    fun _ => requireReady_eq_raise⟩
  have hrb := rateBytes_pos_of_configCheck (hcfg hready)
  have hout := outBytes_pos_of_configCheck (hcfg hready)
  refine ⟨_, exec_sqz_eq hready, Memory.store_wf Memory.wf_nil 0, fun j hj => ?digest,
    fun _ => read_squeeze_of_le hrb, ?state, ?frame⟩
  case digest =>
    obtain ⟨_, hperm⟩ := repeatCommand_perm hready (j / s.rateBytes)
    exact ⟨_, hperm, read_squeeze_of_lt hrb hj⟩
  case state =>
    have hcount : (s.outBytes + s.rateBytes - 1) / s.rateBytes - 1 = (s.outBytes - 1) / s.rateBytes := by
      rw [Nat.sub_add_comm hout, Nat.add_div_right _ hrb, Nat.succ_sub_one]
    obtain ⟨_, hperm⟩ := repeatCommand_perm hready ((s.outBytes - 1) / s.rateBytes)
    rw [hcount, squeeze, squeezeFrom_state hrb hout le_rfl]
    exact ⟨_, hperm, rfl⟩
  case frame => rw [squeeze_frame]

/-- Settles O49: byte `j` of either digest is the byte of one grid, for no permutation reads `OUT_BITS`
(42_sponge.md R142). -/
theorem shorterDigestIsPrefix : Obligations.ShorterDigestIsPrefix := by
  intro s longer hready hcfg _ hle
  have hrb := rateBytes_pos_of_configCheck (hcfg hready)
  refine ⟨_, _, exec_sqz_eq hready, exec_sqz_eq (s := { s with outBits := longer }) hready, fun j hj => ?_⟩
  have hj' : j < ({ s with outBits := longer } : State).outBytes := hj.trans_le (Nat.div_le_div_right hle)
  have hgrid : (permute^[j / s.rateBytes] { s with outBits := longer }).a = (permute^[j / s.rateBytes] s).a := by
    rw [iterate_permute_setOutBits]
  have hbyte' := read_squeeze_of_lt (s := { s with outBits := longer }) hrb hj'
  refine (read_squeeze_of_lt hrb hj).trans (Eq.trans ?_ hbyte'.symm)
  exact congrArg (stateByte s.build.laneOrder · (j % s.rateBytes)) hgrid.symm

end Sys2Proof.Machine
end

section
/-! PROOFS. The post-processing reducer: the division of the digest by π and the multiplication back, the limbs of the
two wide registers, and what a digest loses on the way there and back (43_reducer.md R160 to R169). -/

namespace Sys2Proof.Machine

/-! ### What a legal build fixes (00_scope.md R8, 43_reducer.md R160) -/

section Build
variable {b : Params}

theorem piDen_pos_of_legal (hb : b.Legal) : 0 < b.piDen := by
  obtain ⟨-, -, -, -, -, hden, -, -⟩ := hb
  exact hden

theorem piNum_pos_of_legal (hb : b.Legal) : 0 < b.piNum := by
  obtain ⟨-, -, -, -, -, -, hlt, -⟩ := hb
  exact (Nat.zero_le _).trans_lt hlt

/-- The numerator of π, and so every remainder, fits the 62 bits of `FLATF` (10_state.md R29). -/
theorem piNum_le_of_legal (hb : b.Legal) : b.piNum ≤ 2 ^ 62 := by
  obtain ⟨-, -, -, -, -, -, -, hnum⟩ := hb
  exact hnum

theorem redMaxBits_eq_limbs (hb : b.Legal) : b.redMaxBits = 64 * b.redLimbs := by
  obtain ⟨-, -, -, hwhole, -⟩ := hb
  unfold Params.redLimbs
  omega

end Build

/-! ### The checks of `RED` and `REC` (60_exceptions.md R184, R188) -/

section Checks
variable {s : State} {body : Result}

theorem requireReady_requirePrecision_pass (hready : s.ready = true) (hfits : s.outBits.toNat ≤ s.build.redMaxBits) :
    requireReady s (requirePrecision s body) = body :=
  (requireReady_pass hready).trans (requirePrecision_pass hfits)

theorem requirePrecision_eq_raise (hready : s.ready = true) (hwide : s.build.redMaxBits < s.outBits.toNat) :
    requireReady s (requirePrecision s body) = .next (raise .precisionError s) :=
  (requireReady_pass hready).trans (requirePrecision_fail (Nat.not_le.mpr hwide))

theorem exec_red_eq (hready : s.ready = true) (hfits : s.outBits.toNat ≤ s.build.redMaxBits) :
    exec .red s = complete 0 (reduceState (digestInteger s.dig s.outBytes) s) :=
  requireReady_requirePrecision_pass hready hfits

theorem exec_recover_eq (hready : s.ready = true) (hfits : s.outBits.toNat ≤ s.build.redMaxBits) :
    exec .recover s = complete 0 { s with rcv := recoverInteger s.build s.quot s.outBits.toNat } :=
  requireReady_requirePrecision_pass hready hfits

end Checks

/-! ### Reducing (43_reducer.md R161, R162, R169) -/

/-- The zero-forcing test is strict and on both sides of the boundary (43_reducer.md R161, 90_conflicts.md C2). -/
theorem nearInteger_iff (b : Params) (r : Nat) :
    nearInteger b r = true ↔ r * 10 ^ 10 < b.piNum ∨ (b.piNum - r) * 10 ^ 10 < b.piNum := by
  rw [nearInteger, Bool.or_eq_true, decide_eq_true_iff, decide_eq_true_iff, epsDen]

section Reduce
variable {s : State} {h : Nat}

/-- `RED` reads none of the registers it writes, nor `RCV`, so that their values before it need no premise. -/
theorem reduceState_ranges (hb : s.build.Legal) (hh : h < 2 ^ s.build.redMaxBits) :
    (reduceState h s).quot < 2 ^ s.build.redMaxBits ∧ (reduceState h s).flatI.toNat < reducerMod ∧
      (reduceState h s).flatF.toNat < s.build.piNum ∧
      ((reduceState h s).fz = true → (reduceState h s).flatI = 0 ∧ (reduceState h s).flatF = 0) := by
  obtain ⟨hquot, -, hflat⟩ := reduceState_reducerOk (s := { s with quot := 0, rcv := 0, flatI := 0, flatF := 0 }) hb
    (reducerOk_of_zero hb rfl rfl rfl rfl) hh
  exact ⟨hquot, hflat⟩

theorem reduceState_unforced (hb : s.build.Legal) (hfz : (reduceState h s).fz = false) :
    (reduceState h s).flatI.toNat = (reduceState h s).quot % 369 ∧
      (reduceState h s).flatF.toNat = h * s.build.piDen % s.build.piNum := by
  have hrem : h * s.build.piDen % s.build.piNum < 2 ^ 62 :=
    (Nat.mod_lt _ (piNum_pos_of_legal hb)).trans_le (piNum_le_of_legal hb)
  have hfar : ¬ nearInteger s.build (h * s.build.piDen % s.build.piNum) = true := by
    rw [← reduceState_fz, hfz]
    exact Bool.false_ne_true
  rw [reduceState_flatI, reduceState_flatF, reduceState_quot, if_neg hfar, if_neg hfar]
  constructor
  · rw [BitVec.toNat_ofNat, reducerMod]
    omega
  · rw [BitVec.toNat_ofNat, Nat.mod_eq_of_lt hrem]

end Reduce

/-- Settles O53: quotient and remainder are those of the division, whose law is `Nat.div_add_mod`. -/
theorem reduceDividesByPi : Obligations.ReduceDividesByPi := by
  refine ⟨fun _ => decode_formatN_ok rfl (fun _ _ _ => rfl) rfl, fun s hb hready hfits => ?_,
    fun _ => requireReady_eq_raise, fun _ => requirePrecision_eq_raise⟩
  intro H
  obtain ⟨hquot, hflatI, hflatF, hforced⟩ := reduceState_ranges hb (digestInteger_lt_two_pow s.dig hfits)
  exact ⟨_, H * s.build.piDen % s.build.piNum, exec_red_eq hready hfits, rfl, (Nat.div_add_mod' _ _).symm,
    Nat.mod_lt _ (piNum_pos_of_legal hb), hquot, nearInteger_iff s.build _, hforced, reduceState_unforced hb,
    Nat.le_of_lt_succ hflatI, hflatF⟩

/-! ### Limbs (20_memory.md R55) -/

theorem limb_getLsbD (q i : Nat) {k : Nat} (hk : k < 64) : (limb q i).getLsbD k = q.testBit (64 * i + k) := by
  rw [limb, BitVec.getLsbD_ofNat, Nat.testBit_div_two_pow, decide_eq_true hk, Bool.true_and, Nat.add_comm]

/-- The register as the bits above the limb, the limb, and the bits below it. -/
theorem setLimb_eq_nested (q i : Nat) (v : Datum) :
    setLimb q i v = 2 ^ (64 * i) * (2 ^ 64 * (q / 2 ^ (64 * (i + 1))) + v.toNat) + q % 2 ^ (64 * i) := by
  rw [setLimb, Nat.mul_add_one, pow_add]
  ring

theorem setLimb_testBit (q i : Nat) (v : Datum) (k : Nat) :
    (setLimb q i v).testBit k =
      if 64 * i ≤ k ∧ k < 64 * i + 64 then v.getLsbD (k - 64 * i) else q.testBit k := by
  have hlow : q % 2 ^ (64 * i) < 2 ^ (64 * i) := Nat.mod_lt q (by positivity)
  rw [setLimb_eq_nested, Nat.testBit_two_pow_mul_add _ hlow, Nat.testBit_two_pow_mul_add _ v.isLt]
  by_cases hbelow : k < 64 * i
  · rw [if_pos hbelow, if_neg (by omega), Nat.testBit_mod_two_pow, decide_eq_true hbelow, Bool.true_and]
  by_cases hin : k < 64 * i + 64
  · rw [if_neg hbelow, if_pos (by omega), if_pos (by omega)]
    rfl
  · have hbit : k - 64 * i - 64 + 64 * (i + 1) = k := by omega
    rw [if_neg hbelow, if_neg (by omega), if_neg (by omega), Nat.testBit_div_two_pow, hbit]

/-- Settles O54: both registers are read by the one limb function. -/
theorem readLimbs : Obligations.ReadLimbs :=
  ⟨fun _ _ => decode_formatI rfl, fun _ _ => decode_formatI rfl,
    fun s i hi => ⟨limb s.quot i, limb s.rcv i, requireBelow_pass hi, requireBelow_pass hi,
      fun _ hk => ⟨limb_getLsbD s.quot i hk, limb_getLsbD s.rcv i hk⟩⟩,
    fun _ _ hi => ⟨requireBelow_eq_raise hi, requireBelow_eq_raise hi⟩⟩

/-- Settles O55, bit by bit; the width is kept because it is a whole number of limbs. -/
theorem writeQuotientLimb : Obligations.WriteQuotientLimb := by
  refine ⟨fun _ _ => decode_formatI rfl, fun s i wd hb hi hquot => ?_, fun _ _ _ hi => requireBelow_eq_raise hi⟩
  have hwidth : setLimb s.quot i wd < 2 ^ s.build.redMaxBits := by
    rw [redMaxBits_eq_limbs hb] at hquot ⊢
    exact setLimb_lt hquot hi wd
  exact ⟨_, requireBelow_pass hi, rfl, hwidth, setLimb_testBit s.quot i wd⟩

/-! ### Recovering (43_reducer.md R165, R166) -/

/-- Settles O56: the floor is the integer division, and the register takes its residue. -/
theorem recoverMultipliesByPi : Obligations.RecoverMultipliesByPi := by
  refine ⟨fun _ => decode_formatN_ok rfl (fun _ _ _ => rfl) rfl, fun s hb hready hfits => ?_,
    fun _ => requireReady_eq_raise, fun _ => requirePrecision_eq_raise⟩
  refine ⟨_, s.quot * s.build.piNum / s.build.piDen, exec_recover_eq hready hfits, rfl, Nat.div_mul_le_self _ _, ?_,
    Nat.mod_lt _ (by positivity), Nat.mod_modEq _ _⟩
  rw [mul_comm (_ + 1)]
  exact Nat.lt_mul_div_succ _ (piDen_pos_of_legal hb)

/-! ### There and back (43_reducer.md R168) -/

/-- Dividing `h * d` by `n` and multiplying the quotient back loses the remainder over `d`, rounded up. -/
theorem quotient_mul_div_add_ceil {d : Nat} (hd : 0 < d) (h n : Nat) :
    h * d / n * n / d + (h * d % n + d - 1) / d = h := by
  have hsplit : h * d / n * n + h * d % n = h * d := Nat.div_add_mod' _ _
  generalize h * d / n * n = product at hsplit ⊢
  generalize h * d % n = rem at hsplit ⊢
  have hexpand : d * (h + 1) = h * d + d := by ring
  have hle : product / d ≤ h := Nat.div_le_of_le_mul (by rw [mul_comm]; omega)
  have hceil : (rem + d - 1) / d = h + 1 - (product / d + 1) := by
    rw [← Nat.mul_sub_div product d (h + 1) (by omega)]
    congr 1
    omega
  omega

theorem ceil_eq_zero_iff {d : Nat} (hd : 0 < d) (r : Nat) : (r + d - 1) / d = 0 ↔ r = 0 := by
  rw [Nat.div_eq_zero_iff]
  omega

/-- The product is no more than the digest, so that the modulus of R165 takes nothing away. -/
theorem recoverInteger_reduced {b : Params} (hb : b.Legal) {h bits : Nat} (hh : h < 2 ^ bits) :
    recoverInteger b (h * b.piDen / b.piNum) bits + (h * b.piDen % b.piNum + b.piDen - 1) / b.piDen = h := by
  have hsum := quotient_mul_div_add_ceil (piDen_pos_of_legal hb) h b.piNum
  have hfits : h * b.piDen / b.piNum * b.piNum / b.piDen < 2 ^ bits := (Nat.le.intro hsum).trans_lt hh
  rwa [recoverInteger, Nat.mod_eq_of_lt hfits]

theorem recoverInteger_reduced_eq_iff {b : Params} (hb : b.Legal) {h bits : Nat} (hh : h < 2 ^ bits) :
    recoverInteger b (h * b.piDen / b.piNum) bits = h ↔ h * b.piDen % b.piNum = 0 := by
  rw [← ceil_eq_zero_iff (piDen_pos_of_legal hb), ← Nat.add_eq_left (a := recoverInteger b _ bits),
    recoverInteger_reduced hb hh, eq_comm]

/-- In lowest terms the reference π is `1570796326794896619 / (5 * 10^17)` (log 3). -/
theorem mul_referenceDen_mod_eq_zero_iff (h : Nat) :
    h * 10 ^ 18 % 3141592653589793238 = 0 ↔ h % 1570796326794896619 = 0 := by
  have hcoprime : Nat.Coprime 1570796326794896619 (5 * 10 ^ 17) := by norm_num
  have hhalve : h * 10 ^ 18 % 3141592653589793238 = 2 * (h * (5 * 10 ^ 17) % 1570796326794896619) := by omega
  rw [hhalve, mul_eq_zero, or_iff_right two_ne_zero, ← Nat.dvd_iff_mod_eq_zero, ← Nat.dvd_iff_mod_eq_zero]
  exact hcoprime.dvd_mul_right

/-- Settles O57: the shortfall in general, which with the reference π is a remainder below `PI_NUM` over `PI_DEN`. -/
theorem recoveryErrorBound : Obligations.RecoveryErrorBound := by
  intro s hb hready hfits H R
  have hH : H < 2 ^ s.outBits.toNat := digestInteger_lt_two_pow s.dig le_rfl
  have hshort := recoverInteger_reduced hb hH
  have hexact := recoverInteger_reduced_eq_iff hb hH
  have hrecover := exec_recover_eq (s := { reduceState H s with answer := some ⟨0x00, 0⟩ }) hready hfits
  refine ⟨_, _, exec_red_eq hready hfits, hrecover, hshort, hexact, fun hnum hden => ⟨?_, ?_⟩⟩
  · have hrem : R < s.build.piNum := Nat.mod_lt _ (piNum_pos_of_legal hb)
    have hfour : (R + s.build.piDen - 1) / s.build.piDen ≤ 4 := by
      rw [hnum] at hrem
      rw [hden]
      omega
    exact hshort.symm.trans_le (Nat.add_le_add_left hfour _)
  · refine hexact.trans ?_
    rw [← mul_referenceDen_mod_eq_zero_iff, ← hnum, ← hden]

end Sys2Proof.Machine
end


section
/-! PROOFS. Faults: which one a command takes, and what a transaction's answer says of the state it leaves
(60_exceptions.md R181 to R191). -/

namespace Sys2Proof.Machine

/-! ### Checks one after the other (60_exceptions.md R190) -/

/-- How a command issued in `s` ends, given the fault its checks find first, if any: in that fault, taken in `s` itself,
or in completion. -/
inductive AnswersWith (s : State) : Option CommandFault → Result → Prop where
  | faults (f : CommandFault) : AnswersWith s (some f) (fail f s)
  | completes {s' : State} (rd : Datum) : AnswersWith s none (complete rd s')

section Checks
variable {s : State} {first later : Option CommandFault} {body : Result} {out : Prop} [Decidable out]

theorem AnswersWith.of_eq (h : first = later) (hbody : AnswersWith s later body) : AnswersWith s first body :=
  h ▸ hbody

/-- A check that the command does not make finds no fault. -/
theorem AnswersWith.unchecked {f : CommandFault} (hout : ¬out) (h : AnswersWith s later body) :
    AnswersWith s (if out then some f else later) body := by
  rwa [if_neg hout]

theorem AnswersWith.requireReady (h : AnswersWith s later body) :
    AnswersWith s (if s.ready = false then some .notReady else later) (requireReady s body) := by
  cases hready : s.ready with
  | true => rwa [requireReady_pass hready]
  | false => rw [requireReady_fail hready]; exact .faults _

theorem AnswersWith.withLane {x y : Nat} {onLane : Fin 5 → Fin 5 → Result} (hout : out ↔ 4 < x ∨ 4 < y)
    (h : ∀ x y, AnswersWith s later (onLane x y)) :
    AnswersWith s (if out then some .laneIndexError else later) (withLane x y s onLane) := by
  simp only [hout]
  split
  next ho => rw [withLane_eq_raise ho]; exact .faults _
  next ho => rw [withLane_pass (by omega) (by omega)]; exact h _ _

theorem AnswersWith.requireBelow {i size : Nat} (hout : out ↔ size ≤ i) (h : AnswersWith s later body) :
    AnswersWith s (if out then some .indexRangeError else later) (requireBelow i size s body) := by
  simp only [hout]
  split
  next ho => rw [requireBelow_eq_raise ho]; exact .faults _
  next ho => rwa [requireBelow_pass (by omega)]

/-- Two range checks of one command, of `IDX` and then of `WD`, take the same fault. -/
theorem AnswersWith.requireBelow_requireBelow {i size v bound : Nat} (hout : out ↔ size ≤ i ∨ bound ≤ v)
    (h : AnswersWith s later body) :
    AnswersWith s (if out then some .indexRangeError else later)
      (Machine.requireBelow i size s (Machine.requireBelow v bound s body)) := by
  simp only [hout, ite_or]
  exact .requireBelow .rfl (.requireBelow .rfl h)

theorem AnswersWith.requireRound (hout : out ↔ s.rounds.toNat ≤ s.ridx.toNat) (h : AnswersWith s later body) :
    AnswersWith s (if out then some .roundIndexError else later) (requireRound s body) := by
  simp only [hout]
  split
  next ho => rw [requireRound_fail (by omega)]; exact .faults _
  next ho => rwa [requireRound_pass (by omega)]

theorem AnswersWith.requirePrecision (hout : out ↔ s.build.redMaxBits < s.outBits.toNat)
    (h : AnswersWith s later body) :
    AnswersWith s (if out then some .precisionError else later) (requirePrecision s body) := by
  simp only [hout]
  split
  next ho => rw [requirePrecision_fail (by omega)]; exact .faults _
  next ho => rwa [requirePrecision_pass (by omega)]

end Checks

/-! ### The fault tables (60_exceptions.md R183 to R188) -/

section Tables
variable {i : Instr} {s : State}

theorem laneOutOfRange_iff {x y : Nat} (h : i.laneOperands = some (x, y)) :
    laneOutOfRange i = true ↔ 4 < x ∨ 4 < y := by
  simp [laneOutOfRange, h]

theorem outOfRange_ldsh_iff {r x y : Nat} {wd : Datum} :
    outOfRange (.ldsh r x y wd) s = true ↔ s.build.maxRounds ≤ r ∨ 64 ≤ wd.toNat := by
  simp [outOfRange, Nat.lt_iff_add_one_le]

theorem outOfRange_wrbb_iff {off : Nat} {wd : Datum} :
    outOfRange (.wrbb off wd) s = true ↔ 200 ≤ off ∨ 256 ≤ wd.toNat := by
  simp [outOfRange, Nat.lt_iff_add_one_le]

theorem isComputing_of_consumesRound (h : i.consumesRound = true) : i.isComputing = true := by
  obtain (rfl | rfl) | rfl : (i = .kappa ∨ i = .cinj) ∨ i = .round := by simpa [Instr.consumesRound] using h
  all_goals rfl

theorem isComputing_of_usesReducer (h : i.usesReducer = true) : i.isComputing = true := by
  obtain rfl | rfl : i = .red ∨ i = .recover := by simpa [Instr.usesReducer] using h
  all_goals rfl

theorem laneOutOfRange_of_isComputing (h : i.isComputing = true) : laneOutOfRange i = false := by
  cases i with
  | ldk | ldsh | rdsh | xorl | rdl | rdrot => cases h
  | _ => rfl

/-- A command that computes nothing is checked for its operands only. -/
theorem firstFault_of_not_computing (hinit : i ≠ .init) (hcomputing : i.isComputing = false) :
    firstFault i s =
      if laneOutOfRange i then some .laneIndexError else if outOfRange i s then some .indexRangeError else none := by
  have hround : i.consumesRound = false :=
    Bool.eq_false_iff.mpr fun h => by simp [isComputing_of_consumesRound h] at hcomputing
  have hreducer : i.usesReducer = false :=
    Bool.eq_false_iff.mpr fun h => by simp [isComputing_of_usesReducer h] at hcomputing
  simp [firstFault, hinit, hcomputing, hround, hreducer]

/-- A computing command names no lane. -/
theorem firstFault_of_computing (hcomputing : i.isComputing = true) :
    firstFault i s =
      if s.ready = false then some .notReady
      else if outOfRange i s then some .indexRangeError
      else if i.consumesRound ∧ s.rounds.toNat ≤ s.ridx.toNat then some .roundIndexError
      else if i.usesReducer ∧ s.build.redMaxBits < s.outBits.toNat then some .precisionError
      else none := by
  have hinit : i ≠ .init := by rintro rfl; cases hcomputing
  simp [firstFault, hinit, hcomputing, laneOutOfRange_of_isComputing hcomputing]

theorem firstFault_init_pass (h : s.configCheck = 0) : firstFault .init s = none := by
  rw [firstFault, if_neg (not_and_of_not_right _ (not_not.mpr h))]
  rfl

theorem firstFault_init_fail (h : s.configCheck ≠ 0) :
    firstFault .init s = some (.configurationError s.configCheck) :=
  if_pos ⟨rfl, h⟩

/-- A failing configuration is the one fault of `INIT` (60_exceptions.md R183). -/
theorem firstFault_init_eq_some_iff {f : CommandFault} :
    firstFault .init s = some f ↔ s.configCheck ≠ 0 ∧ f = .configurationError s.configCheck := by
  by_cases hcfg : s.configCheck = 0
  · simp [firstFault_init_pass hcfg, hcfg]
  · simp [firstFault_init_fail hcfg, hcfg, eq_comm]

/-- ConfigurationError "belongs to `INIT` alone" (60_exceptions.md R190). -/
theorem firstFault_ne_configurationError (hinit : i ≠ .init) (check : Nat) :
    firstFault i s ≠ some (.configurationError check) := by
  rw [firstFault, if_neg (not_and_of_not_left _ hinit)]
  split_ifs <;> simp

end Tables

/-! ### Every command makes the checks of the tables, in their order -/

theorem execInit_answersWith (s : State) : AnswersWith s (firstFault .init s) (execInit s) := by
  by_cases hcfg : s.configCheck = 0
  · rw [execInit_pass hcfg, firstFault_init_pass hcfg]; exact .completes _
  · rw [execInit_fail hcfg, firstFault_init_fail hcfg]; exact .faults _

/-- Each command's checks against its rows of the tables, one after the other; what a command does not check, its rows
leave out. -/
theorem exec_answersWith_firstFault (i : Instr) (s : State) : AnswersWith s (firstFault i s) (exec i s) := by
  cases i with
  | init => exact execInit_answersWith s
  | wrcr | rdcr | rdrc | wrbuf | rdbuf | rddig | wrdig | rdq | wrq | rdrec =>
    refine .of_eq (firstFault_of_not_computing (by simp) rfl) ?_
    exact .unchecked Bool.false_ne_true <| .requireBelow decide_eq_true_iff <| .completes _
  | wrbb off wd =>
    refine .of_eq (firstFault_of_not_computing (by simp) rfl) ?_
    exact .unchecked Bool.false_ne_true <| .requireBelow_requireBelow outOfRange_wrbb_iff <| .completes _
  | ldk | xorl | rdl | rdrot =>
    simp only [exec_ldk, exec_xorl, exec_rdl, exec_rdrot]
    refine .of_eq (firstFault_of_not_computing (by simp) rfl) ?_
    exact .withLane (laneOutOfRange_iff rfl) fun _ _ => .unchecked Bool.false_ne_true <| .completes _
  | rdsh r x y =>
    rw [exec_rdsh]
    refine .of_eq (firstFault_of_not_computing (by simp) rfl) ?_
    exact .withLane (laneOutOfRange_iff rfl) fun _ _ => .requireBelow decide_eq_true_iff <| .completes _
  | ldsh r x y wd =>
    rw [exec_ldsh]
    refine .of_eq (firstFault_of_not_computing (by simp) rfl) ?_
    exact .withLane (laneOutOfRange_iff rfl) fun _ _ =>
      .requireBelow_requireBelow outOfRange_ldsh_iff <| .completes _
  | absf n =>
    refine .of_eq (firstFault_of_computing rfl) ?_
    exact .requireReady <| .requireBelow decide_eq_true_iff <| .unchecked (by simp [Instr.consumesRound]) <|
      .unchecked (by simp [Instr.usesReducer]) <| .completes _
  | cpmix | lrot | lreloc | nlcomb | perm | absb | sqz =>
    refine .of_eq (firstFault_of_computing rfl) ?_
    exact .requireReady <| .unchecked Bool.false_ne_true <| .unchecked (by simp [Instr.consumesRound]) <|
      .unchecked (by simp [Instr.usesReducer]) <| .completes _
  | kappa | cinj | round =>
    refine .of_eq (firstFault_of_computing rfl) ?_
    exact .requireReady <| .unchecked Bool.false_ne_true <| .requireRound (and_iff_right rfl) <|
      .unchecked (by simp [Instr.usesReducer]) <| .completes _
  | red | recover =>
    refine .of_eq (firstFault_of_computing rfl) ?_
    exact .requireReady <| .unchecked Bool.false_ne_true <| .unchecked (by simp [Instr.consumesRound]) <|
      .requirePrecision (and_iff_right rfl) <| .completes _

theorem fail_ne_complete (f : CommandFault) (rd : Datum) (s s' : State) : fail f s ≠ complete rd s' := fun h => by
  obtain ⟨hcode, -⟩ : f.code = 0x00 ∧ 0 = rd := by simpa using congrArg State.answer (complete_eq_next.mp h.symm)
  exact code_ne_ok f hcode

theorem exec_of_firstFault_some {i : Instr} {s : State} {f : CommandFault} (h : firstFault i s = some f) :
    exec i s = fail f s := by
  have hanswers := exec_answersWith_firstFault i s
  rw [h] at hanswers
  generalize exec i s = r at hanswers
  cases hanswers
  rfl

/-- A completing command leaves the fault record with the rest of its context. -/
theorem exec_of_firstFault_none {i : Instr} {s : State} (h : firstFault i s = none) :
    ∃ rd s', exec i s = complete rd s' ∧ s.KeepsContext s' := by
  have hanswers := exec_answersWith_firstFault i s
  have hends := exec_answers i s
  rw [h] at hanswers
  generalize exec i s = r at hanswers hends
  cases hends with
  | completes rd hkeeps => exact ⟨rd, _, rfl, hkeeps⟩
  | faults f =>
    generalize hr : fail f s = r at hanswers
    cases hanswers
    exact absurd hr (fail_ne_complete f _ s _)

/-- Settles O13: the checks each command makes are those of the tables, in their order. -/
theorem faultPriority : Obligations.FaultPriority :=
  ⟨fun _ _ _ _ _ hhost herr => ⟨_, step_issue_illegal hhost herr, rfl⟩,
    fun _ _ _ h => exec_of_firstFault_some h,
    fun _ _ hnone =>
      have ⟨_, _, hexec, _⟩ := exec_of_firstFault_none hnone
      ⟨_, _, hexec, rfl⟩⟩

/-! ### What a fault records (60_exceptions.md R191) -/

/-- A word that decodes to `INIT` has its opcode. -/
theorem opcOf_of_decode_init {cw : CommandWord} {wd : Datum} (h : decode cw wd = .ok .init) : opcOf cw = 0x01 := by
  obtain ⟨f, hrow, -⟩ := decode_eq_ok_iff.mp h
  obtain ⟨hopc, -, -⟩ := encode_of_rowOf hrow
  exact hopc.symm

/-- `ERRINFO` has room for the number of a check, 1 to 6 (10_state.md R33). -/
theorem configurationError_info_toNat (s : State) :
    (CommandFault.configurationError s.configCheck).info.toNat = s.configCheck := by
  have hle : s.configCheck ≤ 6 := configCheck_le ..
  rw [CommandFault.info, BitVec.toNat_ofNat, Nat.mod_eq_of_lt (by omega)]

/-- Every fault but a ConfigurationError has a code of its own and records no check (60_exceptions.md R181, R191). -/
theorem code_info_of_ne {f : CommandFault} (hf : ∀ check, f ≠ .configurationError check) :
    f.code ≠ 2 ∧ f.info = 0 := by
  cases f with
  | configurationError check => exact absurd rfl (hf check)
  | _ => exact ⟨by decide, rfl⟩

/-! ### The ends of a transaction (60_exceptions.md R191) -/

/-- The states in which the transaction `cw`, `wd` issued in `s` can end, `rest` being the actions after it: a failing
`INIT`, any other fault of any other word, or a completion. -/
inductive TransactionEnds (s : State) (cw : CommandWord) (wd : Datum) (rest : List HostAction) : State → Prop where
  | configurationFails (hinit : decode cw wd = .ok .init) (hcfg : s.configCheck ≠ 0) :
      TransactionEnds s cw wd rest (raise (.configurationError s.configCheck) (s.taken rest))
  | faults (f : CommandFault) (hf : ∀ check, f ≠ .configurationError check) (hinit : decode cw wd ≠ .ok .init) :
      TransactionEnds s cw wd rest (raise f (s.taken rest))
  | completes {s' : State} (rd : Datum) (h : (s.taken rest).KeepsContext s') :
      TransactionEnds s cw wd rest { s' with answer := some { st := 0x00, rd := rd } }

section Transaction
variable {s t : State} {cw : CommandWord} {wd : Datum} {rest : List HostAction}

theorem transactionEnds_of_step (hhost : s.host = .issue cw wd :: rest) (hstep : step s = .next t) :
    TransactionEnds s cw wd rest t := by
  cases hdec : decode cw wd with
  | error e =>
    rw [step_issue_illegal hhost hdec, fail_eq_next] at hstep
    subst hstep
    exact .faults _ (by simp) (by simp [hdec])
  | ok i =>
    rw [step_issue_ok hhost hdec] at hstep
    cases hfirst : firstFault i (s.taken rest) with
    | none =>
      obtain ⟨rd, s', hexec, hkeeps⟩ := exec_of_firstFault_none hfirst
      rw [hexec, complete_eq_next] at hstep
      subst hstep
      exact .completes rd hkeeps
    | some f =>
      rw [exec_of_firstFault_some hfirst, fail_eq_next] at hstep
      subst hstep
      by_cases hi : i = .init
      · subst hi
        obtain ⟨hcfg, rfl⟩ := firstFault_init_eq_some_iff.mp hfirst
        exact .configurationFails hdec hcfg
      · refine .faults f (fun check hf => ?_) (by simpa [hdec] using hi)
        exact firstFault_ne_configurationError hi check (hf ▸ hfirst)

end Transaction

/-- Settles O12, by the three ends of a transaction. -/
theorem faultEntry : Obligations.FaultEntry := by
  intro s t cw wd rest a hhost hstep hanswer
  cases transactionEnds_of_step hhost hstep with
  | configurationFails hinit hcfg =>
    obtain rfl := Option.some.inj hanswer
    exact ⟨fun _ => ⟨rfl, rfl⟩, fun _ hne => absurd rfl hne,
      fun _ => ⟨hinit, rfl, hcfg, configurationError_info_toNat s⟩, fun _ _ => rfl,
      fun _ hopc => absurd (opcOf_of_decode_init hinit) hopc, nofun⟩
  | faults f hf hinit =>
    obtain rfl := Option.some.inj hanswer
    obtain ⟨hcode, hinfo⟩ := code_info_of_ne hf
    exact ⟨fun _ => ⟨rfl, rfl⟩, fun _ _ => hinfo, fun h2 => absurd h2 hcode, fun _ h => absurd h hinit,
      fun _ _ => readyAfter_of_ne hf s.ready, fun hok => absurd hok (code_ne_ok f)⟩
  | completes rd hkeeps =>
    obtain rfl := Option.some.inj hanswer
    exact ⟨fun hst => absurd rfl hst, fun hst => absurd rfl hst, nofun, fun hst => absurd rfl hst,
      fun hst => absurd rfl hst, fun _ => ⟨hkeeps.lastErr, hkeeps.errInfo⟩⟩

end Sys2Proof.Machine
end

section
/-! PROOFS. Rows of the shift table at or above `ROUNDS` are read by no computing command
(70_reset_and_hazards.md R220). -/

namespace Sys2Proof.Machine

/-- The state with another shift table. -/
def State.withShifts (s : State) (ksh' : List ShiftRow) : State := { s with ksh := ksh' }

/-- The shift table of `s` and `ksh'` have the same rows below `ROUNDS` (70_reset_and_hazards.md R220). -/
def State.UsedRowsAgree (s : State) (ksh' : List ShiftRow) : Prop :=
  ∀ r, r < s.rounds.toNat → (s.withShifts ksh').shiftRow r = s.shiftRow r

/-! ### Rounds, with the table replaced

The round index stays below `ROUNDS` from the first round on, so that every row read is one of those that agree. -/

section Rounds
variable {s : State} {ksh' : List ShiftRow}

/-- Work on the grid and the round index leaves the rows that are read as they are. -/
theorem State.UsedRowsAgree.of_gridUpdate {t : State} (h : s.UsedRowsAgree ksh')
    (ht : t = { s with a := t.a, ridx := t.ridx }) : t.UsedRowsAgree ksh' := by
  rw [ht]
  exact h

theorem State.UsedRowsAgree.permute (h : s.UsedRowsAgree ksh') : (permute s).UsedRowsAgree ksh' :=
  h.of_gridUpdate (permute_frame s)

theorem State.UsedRowsAgree.absorb (h : s.UsedRowsAgree ksh') (blk : List Byte) :
    (absorb blk s).UsedRowsAgree ksh' :=
  h.of_gridUpdate (absorb_frame blk s)

theorem roundState_ridx_lt (hridx : s.ridx.toNat < s.rounds.toNat) :
    (roundState s).ridx.toNat < s.rounds.toNat :=
  (roundState_ridx_toNat hridx).trans_lt (Nat.mod_lt _ (Nat.zero_lt_of_lt hridx))

/-- The round index selects the same row from either table. -/
theorem shiftRow_ridx_withShifts (h : s.UsedRowsAgree ksh') (hridx : s.ridx.toNat < s.rounds.toNat) :
    (s.withShifts ksh').shiftRow (s.withShifts ksh').ridx.toNat = s.shiftRow s.ridx.toNat :=
  h _ hridx

theorem roundState_withShifts (h : s.UsedRowsAgree ksh') (hridx : s.ridx.toNat < s.rounds.toNat) :
    roundState (s.withShifts ksh') = (roundState s).withShifts ksh' := by
  rw [roundState, shiftRow_ridx_withShifts h hridx]
  rfl

theorem runRounds_withShifts (n : Nat) (h : s.UsedRowsAgree ksh') (hridx : s.ridx.toNat < s.rounds.toNat) :
    runRounds n (s.withShifts ksh') = (runRounds n s).withShifts ksh' := by
  induction n generalizing s with
  | zero => rfl
  | succ n ih =>
    rw [runRounds_succ, roundState_withShifts h hridx, runRounds_succ]
    exact ih (h.of_gridUpdate rfl) (roundState_ridx_lt hridx)

/-- With `ROUNDS = 0` there is no round; with more, the first one is round 0. -/
theorem permute_withShifts (h : s.UsedRowsAgree ksh') :
    permute (s.withShifts ksh') = (permute s).withShifts ksh' := by
  rcases Nat.eq_zero_or_pos s.rounds.toNat with hzero | hpos
  · rw [permute, permute, hzero, show (s.withShifts ksh').rounds.toNat = 0 from hzero]
    rfl
  · exact runRounds_withShifts (s := { s with ridx := 0 }) _ h hpos

/-! ### The sponge, with the table replaced -/

theorem absorb_withShifts (blk : List Byte) (h : s.UsedRowsAgree ksh') :
    absorb blk (s.withShifts ksh') = (absorb blk s).withShifts ksh' :=
  permute_withShifts (s := { s with a := xorBytes s.build.laneOrder 0 blk s.a }) h

theorem absorbFinal_withShifts (n : Nat) (h : s.UsedRowsAgree ksh') :
    absorbFinal n (s.withShifts ksh') = (absorbFinal n s).withShifts ksh' := by
  have hrate : (s.withShifts ksh').rateBytes = s.rateBytes := rfl
  rw [absorbFinal, absorbFinal, hrate]
  split
  next => exact absorb_withShifts _ h
  next => rw [absorb_withShifts _ h, absorb_withShifts _ (h.absorb _)]; rfl

theorem squeezeFrom_withShifts (fuel need : Nat) (h : s.UsedRowsAgree ksh') :
    squeezeFrom fuel need (s.withShifts ksh') =
      ((squeezeFrom fuel need s).1, (squeezeFrom fuel need s).2.withShifts ksh') := by
  induction fuel generalizing need s with
  | zero => rfl
  | succ fuel ih =>
    have hrate : (s.withShifts ksh').rateBytes = s.rateBytes := rfl
    simp only [squeezeFrom, hrate, permute_withShifts h, ih _ h.permute]
    split <;> rfl

theorem squeeze_withShifts (h : s.UsedRowsAgree ksh') :
    squeeze (s.withShifts ksh') = ((squeeze s).1, (squeeze s).2.withShifts ksh') :=
  squeezeFrom_withShifts _ _ h

end Rounds

/-! ### The computing commands, with the table replaced -/

/-- Two runs go on, in states that differ at most in the shift table, which is `ksh'` in the second. -/
def AgreeButShifts (ksh' : List ShiftRow) (r r' : Result) : Prop :=
  ∃ t, r = .next t ∧ r' = .next (t.withShifts ksh')

theorem AgreeButShifts.complete {t t' : State} {ksh' : List ShiftRow} (rd : Datum) (h : t' = t.withShifts ksh') :
    AgreeButShifts ksh' (complete rd t) (complete rd t') := by
  rw [h]
  exact ⟨_, rfl, rfl⟩

/-- A check, whatever it tests and whatever its fault: when the test reads no shift row, both runs pass it or both
take its fault. -/
theorem AgreeButShifts.check {s : State} {ksh' : List ShiftRow} {body body' : Result} {f : CommandFault} {c : Prop}
    [Decidable c] (h : c → AgreeButShifts ksh' body body') :
    AgreeButShifts ksh' (if c then body else fail f s) (if c then body' else fail f (s.withShifts ksh')) := by
  split
  next hc => exact h hc
  next => exact ⟨_, rfl, rfl⟩

section Commands
variable {s : State} {ksh' : List ShiftRow} {body body' : Result}

theorem AgreeButShifts.requireReady (h : AgreeButShifts ksh' body body') :
    AgreeButShifts ksh' (requireReady s body) (requireReady (s.withShifts ksh') body') :=
  .check fun _ => h

theorem AgreeButShifts.requireBelow {i size : Nat} (h : AgreeButShifts ksh' body body') :
    AgreeButShifts ksh' (requireBelow i size s body) (requireBelow i size (s.withShifts ksh') body') :=
  .check fun _ => h

theorem AgreeButShifts.requireRound (h : s.ridx.toNat < s.rounds.toNat → AgreeButShifts ksh' body body') :
    AgreeButShifts ksh' (requireRound s body) (requireRound (s.withShifts ksh') body') :=
  .check h

theorem AgreeButShifts.requirePrecision (h : AgreeButShifts ksh' body body') :
    AgreeButShifts ksh' (requirePrecision s body) (requirePrecision (s.withShifts ksh') body') :=
  .check fun _ => h

/-- `KAPPA` reads one row, that of the round index, which its check keeps below `ROUNDS`. -/
theorem execKappa_agreeButShifts (h : s.UsedRowsAgree ksh') :
    AgreeButShifts ksh' (execKappa s) (execKappa (s.withShifts ksh')) := by
  refine .requireReady <| .requireRound fun hridx => .complete _ ?_
  rw [shiftRow_ridx_withShifts h hridx]
  rfl

theorem execSqz_agreeButShifts (h : s.UsedRowsAgree ksh') :
    AgreeButShifts ksh' (execSqz s) (execSqz (s.withShifts ksh')) := by
  refine .requireReady <| .complete _ ?_
  rw [squeeze_withShifts h]
  rfl

/-- The commands that run a round go by the rows below `ROUNDS`; the others read no row. -/
theorem exec_agreeButShifts {i : Instr} (h : s.UsedRowsAgree ksh') (hi : i.isComputing = true) :
    AgreeButShifts ksh' (exec i s) (exec i (s.withShifts ksh')) := by
  cases i with
  | kappa => exact execKappa_agreeButShifts h
  | round => exact .requireReady <| .requireRound fun hridx => .complete _ (roundState_withShifts h hridx)
  | perm => exact .requireReady <| .complete _ (permute_withShifts h)
  | absb => exact .requireReady <| .complete _ (absorb_withShifts _ h)
  | absf n => exact .requireReady <| .requireBelow <| .complete _ (absorbFinal_withShifts n h)
  | sqz => exact execSqz_agreeButShifts h
  | cpmix | lrot | lreloc | nlcomb => exact .requireReady <| .complete _ rfl
  | cinj => exact .requireReady <| .requireRound fun _ => .complete _ rfl
  | red | recover => exact .requireReady <| .requirePrecision <| .complete _ rfl
  | init | wrcr | rdcr | ldk | ldsh | rdsh | xorl | rdl | rdrot | rdrc | wrbuf | wrbb | rdbuf | rddig | wrdig | rdq
  | wrq | rdrec => nomatch hi

end Commands

/-- Settles O59: the two runs make the same checks, and their rounds read the same rows. -/
theorem unusedShiftRowsAreNotRead : Obligations.UnusedShiftRowsAreNotRead :=
  fun _ _ _ hi h => exec_agreeButShifts h hi

end Sys2Proof.Machine
end
